-- ==== Sys2Proof/Word.lean ====
section
/-! DEFINITION. The word types of the OPER-8: bytes, addresses and register numbers (spec/00_scope.md section 4). -/

namespace Sys2Proof

/-- A data value, the contents of one register or one memory location: 8 bits (R10, R30). -/
abbrev Byte := BitVec 8

/-- An address, the program counter, or the stack pointer: 16 bits (R16, R30). -/
abbrev Addr := BitVec 16

/-- A register number: 4 bits, so that the register after R15 is R0 (R2, R54). -/
abbrev RegNum := BitVec 4

/-- The low four bits of a nibble-wide immediate, as LDLO and LDHI carry it (R53). -/
abbrev Nibble := BitVec 4

end Sys2Proof
end

