-- ==== Sys2Proof/Config.lean ====
section
/-! DEFINITION. The configuration parameters of the spec (00_scope.md section 4, 92_eei_decisions.md "Open parameters"). -/

namespace Sys2Proof

/-- `POP_ORDER` (R147, R148, conflict C4): which register of its range POP fills first. -/
inductive PopOrder where
  /-- The literal text: POP fills Rx first. The spec's default. -/
  | ascending
  /-- The alternative reading: POP fills Ry first. -/
  | descending
  deriving DecidableEq, Repr

/-- `DIV0` (R99, conflict C7): what DIV does with a zero divisor. -/
inductive DivZero where
  /-- Quotient `$FF`, remainder the old Rx. The spec's default. -/
  | documented
  /-- The model fault DivideByZero. -/
  | fault
  deriving DecidableEq, Repr

/-- The parameters that a model takes as arguments and that no instruction changes. The spec also names `HLT_WAKE`, a set of
wake events of which it defines no member; it is left empty (log 9). -/
structure Config where
  /-- `POP_ORDER`. -/
  popOrder : PopOrder
  /-- `DIV0`. -/
  div0 : DivZero
  /-- `STRICT_OPERAND`: whether a non-zero operand byte on NOP, RET, HLT is a model fault (R59). -/
  strictOperand : Bool
  deriving DecidableEq, Repr

/-- The defaults that 00_scope.md section 4 names: ascending, documented, false. -/
def Config.default : Config where
  popOrder := .ascending
  div0 := .documented
  strictOperand := false

end Sys2Proof
end

