-- ==== Sys2Proof/Syntax.lean ====
section
/-! DEFINITION. The instructions of the OPER-8: one constructor per row of spec/opcode_table.json, in the table's order. -/

namespace Sys2Proof

/-- An instruction with its operand fields (R51). The bits that the hardware ignores (`unused`, R58, R59) are kept, so that an
instruction and its bytes determine each other, and STRICT_OPERAND can look at them (log 27). -/
inductive Instr where
  /-- `NOP`, opcode `$00`, format N (46_misc.md R155). -/
  | nop (unused : Byte)
  /-- `LDLO Rx, #imm`, opcode `$10`, format RI4 (40_data_movement.md R71). -/
  | ldlo (xn : RegNum) (imm4 : Nibble)
  /-- `LDHI Rx, #imm`, opcode `$11`, format RI4 (40_data_movement.md R72). -/
  | ldhi (xn : RegNum) (imm4 : Nibble)
  /-- `LDI0 #imm`, opcode `$12`, format I8 (40_data_movement.md R73). -/
  | ldi0 (imm8 : Byte)
  /-- `LDI16 Rx, Ry`, opcode `$13`, format RR16 (40_data_movement.md R74). -/
  | ldi16 (xn yn : RegNum) (hi lo : Byte)
  /-- `MOV Rx, Ry`, opcode `$14`, format RR (40_data_movement.md R75). -/
  | mov (xn yn : RegNum)
  /-- `SWAP Rx, Ry`, opcode `$15`, format RR (40_data_movement.md R76). -/
  | swap (xn yn : RegNum)
  /-- `LOAD Rx, Ry`, opcode `$20`, format RR (41_memory_access.md R81). -/
  | load (xn yn : RegNum)
  /-- `STOR Rx, Ry`, opcode `$21`, format RR (41_memory_access.md R82). -/
  | stor (xn yn : RegNum)
  /-- `LOADZ #addr`, opcode `$22`, format A8 (41_memory_access.md R83). -/
  | loadz (addr8 : Byte)
  /-- `STORZ #addr`, opcode `$23`, format A8 (41_memory_access.md R84). -/
  | storz (addr8 : Byte)
  /-- `ADD Rx, Ry`, opcode `$30`, format RR (42_arithmetic.md R91). -/
  | add (xn yn : RegNum)
  /-- `ADC Rx, Ry`, opcode `$31`, format RR (42_arithmetic.md R92). -/
  | adc (xn yn : RegNum)
  /-- `SUB Rx, Ry`, opcode `$32`, format RR (42_arithmetic.md R93). -/
  | sub (xn yn : RegNum)
  /-- `SBC Rx, Ry`, opcode `$33`, format RR (42_arithmetic.md R94). -/
  | sbc (xn yn : RegNum)
  /-- `INC Rx`, opcode `$34`, format R (42_arithmetic.md R95). -/
  | inc (xn : RegNum) (unused : Nibble)
  /-- `DEC Rx`, opcode `$35`, format R (42_arithmetic.md R96). -/
  | dec (xn : RegNum) (unused : Nibble)
  /-- `CMP Rx, Ry`, opcode `$36`, format RR (42_arithmetic.md R97). -/
  | cmp (xn yn : RegNum)
  /-- `MUL Rx, Ry`, opcode `$37`, format RR (42_arithmetic.md R98). -/
  | mul (xn yn : RegNum)
  /-- `DIV Rx, Ry`, opcode `$38`, format RR (42_arithmetic.md R99). -/
  | div (xn yn : RegNum)
  /-- `AND Rx, Ry`, opcode `$40`, format RR (43_logical.md R111). -/
  | and (xn yn : RegNum)
  /-- `OR Rx, Ry`, opcode `$41`, format RR (43_logical.md R112). -/
  | or (xn yn : RegNum)
  /-- `XOR Rx, Ry`, opcode `$42`, format RR (43_logical.md R113). -/
  | xor (xn yn : RegNum)
  /-- `NOT Rx`, opcode `$43`, format R (43_logical.md R114). -/
  | not (xn : RegNum) (unused : Nibble)
  /-- `SHL Rx`, opcode `$44`, format R (43_logical.md R115). -/
  | shl (xn : RegNum) (unused : Nibble)
  /-- `SHR Rx`, opcode `$45`, format R (43_logical.md R116). -/
  | shr (xn : RegNum) (unused : Nibble)
  /-- `TEST Rx, Ry`, opcode `$46`, format RR (43_logical.md R117). -/
  | test (xn yn : RegNum)
  /-- `JMP offset`, opcode `$50`, format O8 (44_control_flow.md R126). -/
  | jmp (off8 : Byte)
  /-- `JMPL Rx, Ry`, opcode `$51`, format RR (44_control_flow.md R127). -/
  | jmpl (xn yn : RegNum)
  /-- `JZ offset`, opcode `$52`, format O8 (44_control_flow.md R128). -/
  | jz (off8 : Byte)
  /-- `JNZ offset`, opcode `$53`, format O8 (44_control_flow.md R129). -/
  | jnz (off8 : Byte)
  /-- `JC offset`, opcode `$54`, format O8 (44_control_flow.md R130). -/
  | jc (off8 : Byte)
  /-- `JNC offset`, opcode `$55`, format O8 (44_control_flow.md R131). -/
  | jnc (off8 : Byte)
  /-- `JN offset`, opcode `$56`, format O8 (44_control_flow.md R132). -/
  | jn (off8 : Byte)
  /-- `CALL offset`, opcode `$57`, format O8 (44_control_flow.md R133). -/
  | call (off8 : Byte)
  /-- `CALLL Rx, Ry`, opcode `$58`, format RR (44_control_flow.md R134). -/
  | calll (xn yn : RegNum)
  /-- `RET`, opcode `$59`, format N (44_control_flow.md R135). -/
  | ret (unused : Byte)
  /-- `PUSH Rx, Ry`, opcode `$60`, format RR (45_stack.md R146). -/
  | push (xn yn : RegNum)
  /-- `POP Rx, Ry`, opcode `$61`, format RR (45_stack.md R147). -/
  | pop (xn yn : RegNum)
  /-- `HLT`, opcode `$FF`, format N (46_misc.md R156). -/
  | hlt (unused : Byte)
  deriving DecidableEq, Repr

end Sys2Proof
end

