-- ==== Sys2Proof/Machine/State.lean ====
section
/-! DEFINITION. The state of the OPER-8 (spec/10_state.md), the reasons a step can stop, and the state after reset. -/

namespace Sys2Proof.Machine

/-- The three status flags (R21). They are three bits, not a register (R24). -/
structure Flags where
  /-- Z, zero. -/
  z : Bool
  /-- C, carry; after a subtraction, borrow. -/
  c : Bool
  /-- N, negative: bit 7 of a result. -/
  n : Bool
  deriving DecidableEq, Repr

/-- Memory: the bytes that hold a value, as (address, byte) pairs. An address that is not listed holds no value (R28, log 4). -/
abbrev Memory := List Host.Cell

/-- The whole state the spec gives the machine (10_state.md section 1), with the spec's parameters in `cfg` (log 5). -/
structure State where
  /-- R0 to R15 (R10). R14:R15 is the stack pointer (R14). -/
  regs : Vector Byte 16
  /-- The program counter: during an instruction, the address of its opcode byte (R16, R17). -/
  pc : Addr
  /-- Z, C and N (R21). -/
  flags : Flags
  /-- The halt latch (R29). -/
  halted : Bool
  /-- The 65536 bytes of memory (R27, R30). -/
  mem : Memory
  /-- The model's own field: POP_ORDER, DIV0 and STRICT_OPERAND. No instruction writes it. -/
  cfg : Config
  deriving DecidableEq, Repr

/-- The model faults of R161. None is an event of the hardware: each says that the spec gives the situation no meaning. All are
safe: the model stops where the hardware does something. -/
inductive Fault where
  /-- Raised by the fetch when `pc` is odd (R36). Safe. -/
  | misalignedPC (pc : Addr)
  /-- Raised by the fetch on one of the 216 undefined opcode bytes (R57). Safe. -/
  | illegalOpcode (pc : Addr) (op : Byte)
  /-- Raised by NOP, RET and HLT on a non-zero operand byte, only under STRICT_OPERAND (R59). Safe. -/
  | nonCanonicalOperand (pc : Addr) (op arg : Byte)
  /-- Raised by DIV with a zero divisor, only under DIV0 = fault (R99). Safe. -/
  | divideByZero (pc : Addr)
  /-- Raised by the fetch, LDI16's immediate, LOAD, LOADZ, RET and POP on reading a memory byte that holds no value (R28, R163). Safe. -/
  | unwrittenRead (addr : Addr)
  deriving DecidableEq, Repr

/-- Why a step gives no meaning at all. Nothing of this model raises one: every instruction of the table has its meaning. -/
inductive Refusal where
  /-- Raised by `exec` for an instruction without a meaning. Safe. -/
  | notModelled (mnemonic : String)
  deriving DecidableEq, Repr

/-- What a step, or an instruction's meaning, answers. -/
abbrev StepResult := Host.Outcome State Fault Refusal

/-- What the spec leaves open at reset (R28, 00_scope.md section 4): RESET_PC, REG_INIT with the flags, MEM_INIT, and the
configuration. -/
structure ResetParams where
  /-- RESET_PC. The spec requires it to be even. -/
  pc : Addr
  /-- REG_INIT: R0 to R15. -/
  regs : Vector Byte 16
  /-- REG_INIT: Z, C and N. -/
  flags : Flags
  /-- MEM_INIT: the image that the host loads. -/
  mem : Memory
  /-- The configuration parameters. -/
  cfg : Config
  deriving DecidableEq, Repr

/-- The machine right after reset, for any values of what the spec leaves open: `halted` is 0, stated by R28. -/
def State.resetWith (p : ResetParams) : State where
  regs := p.regs
  pc := p.pc
  flags := p.flags
  halted := false
  mem := p.mem
  cfg := p.cfg

/-- The values that this model names for what the spec leaves open: registers, flags and `pc` 0 (DESIGN CHOICE, unsafe: logs 1, 2
and 3), no byte of memory loaded (log 4), the spec's default configuration. -/
def ResetParams.named : ResetParams where
  pc := 0
  regs := Vector.replicate 16 0
  flags := { z := false, c := false, n := false }
  mem := []
  cfg := Config.default

/-- The machine right after reset, with the values this model names. -/
def State.reset : State := State.resetWith ResetParams.named

end Sys2Proof.Machine
end

