-- ==== Sys2Proof/Machine/Flags.lean ====
section
/-! DEFINITION. The flag computations of the table of R21, and the 8-bit results they go with. A listed flag is assigned, never
only set (R1, log 17). -/

namespace Sys2Proof.Machine

/-- `(v == 0)`, the Z of `setZN(v)` (00_scope.md section 5.3). -/
def zeroFlag (v : Byte) : Bool := v == 0#8

/-- `v[7]`, the N of `setZN(v)` (00_scope.md section 5.3). -/
def negFlag (v : Byte) : Bool := v.getLsbD 7

/-- Z and N from the 8-bit result, C as given: the flags of every instruction that writes all three from its result. Z is taken
from the stored byte (R90, conflict C3, log 14). -/
def resultFlags (r : Byte) (c : Bool) : Flags where
  z := zeroFlag r
  c := c
  n := negFlag r

/-- Z and N from the 8-bit result, C kept: TEST (R117). -/
def testFlags (old : Flags) (r : Byte) : Flags where
  z := zeroFlag r
  c := old.c
  n := negFlag r

/-- An exact sum cut to 8 bits (R90). -/
def sumByte (s : Nat) : Byte := BitVec.ofNat 8 s

/-- The carry of an exact sum: it passed `$FF` (R91, R92). -/
def sumCarry (s : Nat) : Bool := decide (s > 0xFF)

/-- The exact difference `a - b - c` (R93, R94). -/
def exactDiff (a b : Byte) (c : Bool) : Int := (a.toNat : Int) - b.toNat - c.toNat

/-- An exact difference cut to 8 bits (R90). -/
def diffByte (d : Int) : Byte := BitVec.ofInt 8 d

/-- The borrow of `a - b - c`: `b + c`, not cut to 8 bits, is greater than `a` (R93, R94). -/
def diffBorrow (a b : Byte) (c : Bool) : Bool := decide (b.toNat + c.toNat > a.toNat)

/-- The flags of CMP (R97): Z on equality, C on borrow, N bit 7 of the discarded difference. -/
def compareFlags (a b : Byte) : Flags where
  z := a == b
  c := decide (b.toNat > a.toNat)
  n := negFlag (diffByte (exactDiff a b false))

/-- The flags of MUL (R98): Z from all 16 bits of the product, C when the high byte is not zero, N bit 7 of the low byte. -/
def productFlags (p : Nat) : Flags where
  z := decide (p = 0)
  c := decide (p > 0xFF)
  n := negFlag (BitVec.ofNat 8 p)

/-- The byte of a rotate left through carry: `a[6:0] ## c` (R115). -/
def rotateLeftByte (a : Byte) (c : Bool) : Byte := a.extractLsb' 0 7 ++ BitVec.ofBool c

/-- The byte of a rotate right through carry: `c ## a[7:1]` (R116). -/
def rotateRightByte (a : Byte) (c : Bool) : Byte := BitVec.ofBool c ++ a.extractLsb' 1 7

end Sys2Proof.Machine
end

