-- ==== Sys2Proof/Machine/Ops.lean ====
section
/-! DEFINITION. The named operations over registers, the program counter, memory and the stack, and the one operation that ends a
step with a model fault. -/

namespace Sys2Proof.Machine

/-! ### Byte order -/

/-- Bits 15:8 of a 16-bit value (R3, R33). -/
def highByte (a : Addr) : Byte := a.extractLsb' 8 8

/-- Bits 7:0 of a 16-bit value (R3, R33). -/
def lowByte (a : Addr) : Byte := a.extractLsb' 0 8

/-- `h ## l`: the 16-bit value with high byte `h` (R3). -/
def joinBytes (h l : Byte) : Addr := h ++ l

/-- Bit 0 of an address: set on an odd one, where no instruction may start (R19, R36). -/
def isOdd (a : Addr) : Bool := a.getLsbD 0

/-! ### Memory as a list of cells -/

/-- The byte at an address; `none` where it holds no value (R28). -/
def Memory.read (m : Memory) (a : Nat) : Option Byte :=
  match m with
  | [] => none
  | (b, u) :: rest => if a = b then some u else Memory.read rest a

/-- Memory with the byte `v` at address `a` and every other location as before (R31), in address order. -/
def Memory.write (m : Memory) (a : Nat) (v : Byte) : Memory :=
  match m with
  | [] => [(a, v)]
  | (b, u) :: rest =>
    if a < b then (a, v) :: (b, u) :: rest
    else if a = b then (a, v) :: rest
    else (b, u) :: Memory.write rest a v

/-- The addresses rise strictly, the first is at least `lo`, and all are below 65536. -/
def Memory.risingFrom (lo : Nat) (m : Memory) : Bool :=
  match m with
  | [] => true
  | (a, _) :: rest => decide (lo ≤ a) && decide (a < 65536) && Memory.risingFrom (a + 1) rest

/-- The canonical form: addresses strictly rising within the address space (R30). An unlisted address holds no value, so no
entry can equal what an unlisted address reads as. -/
def Memory.wf (m : Memory) : Bool := Memory.risingFrom 0 m

/-! ### Registers, flags and the program counter -/

/-- Reads Ri. No register is hardwired (R11). -/
def State.reg (s : State) (i : RegNum) : Byte := s.regs[i.toNat]'(i.isLt)

/-- Writes Ri (R11). -/
def State.setReg (s : State) (i : RegNum) (v : Byte) : State := { s with regs := s.regs.set i.toNat v i.isLt }

/-- Writes the three flags. -/
def State.setFlags (s : State) (f : Flags) : State := { s with flags := f }

/-- Writes the program counter. -/
def State.setPc (s : State) (a : Addr) : State := { s with pc := a }

/-- Moves the program counter past an instruction of `k` bytes, modulo 65536 (R4, R18, R20). -/
def State.advance (s : State) (k : Nat) : State := s.setPc (s.pc + BitVec.ofNat 16 k)

/-- Sets the halt latch (R29). -/
def State.setHalted (s : State) : State := { s with halted := true }

/-- The stack pointer, the pair R14:R15 (R14). -/
def State.sp (s : State) : Addr := joinBytes (s.reg 14#4) (s.reg 15#4)

/-- Writes the stack pointer: R14 gets bits 15:8 and R15 bits 7:0 (R14). -/
def State.setSp (s : State) (a : Addr) : State := (s.setReg 14#4 (highByte a)).setReg 15#4 (lowByte a)

/-! ### Memory accesses of an instruction: one byte each (R37) -/

/-- The byte of memory at an address, if it holds a value: the read of one byte that statements speak of. -/
def State.memByte (s : State) (a : Addr) : Option Byte := s.mem.read a.toNat

/-- `MemRead(a, 1)` (R31): no side effect; UnwrittenRead where the byte holds no value (R28, R163). -/
def State.memRead (s : State) (a : Addr) : Except Fault Byte :=
  match s.memByte a with
  | some v => .ok v
  | none => .error (.unwrittenRead a)

/-- `MemWrite(a, 1, v)` (R31): no other location changes, and it cannot fail. -/
def State.memWrite (s : State) (a : Addr) (v : Byte) : State := { s with mem := s.mem.write a.toNat v }

/-! ### The end of a step by a model fault -/

/-- `raise <Fault>(info)` (00_scope.md section 5.3, R161, R164). The machine has no exception entry: nothing is saved, no mode
changes and control goes nowhere. -/
def raise (f : Fault) : StepResult := .fault f

/-- STRICT_OPERAND's check of the ignored operand byte of NOP, RET and HLT (R59, R163): the fault to raise, if any. -/
def State.operandFault (s : State) (op arg : Byte) : Option Fault :=
  if s.cfg.strictOperand && arg != 0#8 then some (.nonCanonicalOperand s.pc op arg) else none

/-! ### The stack -/

/-- Pushes the return address `ret`: SP goes down by 2, the high byte is written at SP and then the low byte at SP + 1 (R133,
R38). Shared by CALL and CALLL. -/
def State.pushReturn (s : State) (ret : Addr) : State :=
  let s1 := s.setSp (s.sp - 2#16)
  (s1.memWrite s1.sp (highByte ret)).memWrite (s1.sp + 1#16) (lowByte ret)

/-- The registers from `xn` up to `yn`, modulo 16, both included (R145). -/
def regRange (xn yn : RegNum) : List RegNum :=
  (List.range ((yn - xn).toNat + 1)).map (fun k => xn + BitVec.ofNat 4 k)

/-- One iteration of PUSH: SP goes down by 1, then Ri, read after that, is stored at SP (R146). -/
def State.pushReg (s : State) (i : RegNum) : State :=
  let s1 := s.setSp (s.sp - 1#16)
  s1.memWrite s1.sp (s1.reg i)

/-- PUSH's loop over a list of registers, in list order (R146). -/
def State.pushRegs (s : State) (l : List RegNum) : State :=
  match l with
  | [] => s
  | i :: rest => (s.pushReg i).pushRegs rest

/-- One iteration of POP: Ri gets the byte at SP, then SP, read after that, goes up by 1 (R147). -/
def State.popReg (s : State) (i : RegNum) : Except Fault State :=
  match s.memRead s.sp with
  | .ok v => let s1 := s.setReg i v; .ok (s1.setSp (s1.sp + 1#16))
  | .error f => .error f

/-- POP's loop over a list of registers, in list order (R147). -/
def State.popRegs (s : State) (l : List RegNum) : Except Fault State :=
  match l with
  | [] => .ok s
  | i :: rest =>
    match s.popReg i with
    | .ok s1 => s1.popRegs rest
    | .error f => .error f

/-- The order in which POP walks its range (R147): as listed, or backwards under `POP_ORDER = descending`. -/
def popOrderList (o : PopOrder) (l : List RegNum) : List RegNum :=
  match o with
  | .ascending => l
  | .descending => l.reverse

end Sys2Proof.Machine
end

