-- ==== Sys2Proof/Machine/Operands.lean ====
section
/-! DEFINITION. The operand forms: implied registers, the two data addressing modes, relative and absolute targets. -/

namespace Sys2Proof.Machine

/-- The register after Ri, modulo 16: after R15 comes R0 (R2, R13). -/
def nextReg (i : RegNum) : RegNum := i + 1#4

/-- The 16-bit value of the pair Ra:Rb, Ra the high byte (R3). JMPL and CALLL name both registers (R127, R134). -/
def State.pairValue (s : State) (a b : RegNum) : Addr := joinBytes (s.reg a) (s.reg b)

/-- Register-pair indirect, the effective address of LOAD and STOR: Ry:Ry+1 (R80). -/
def State.pairAddress (s : State) (yn : RegNum) : Addr := s.pairValue yn (nextReg yn)

/-- Zero-page direct, the effective address of LOADZ and STORZ: `$00 ## addr8` (R80). -/
def zeroPageAddress (addr8 : Byte) : Addr := joinBytes 0#8 addr8

/-- The target of a relative jump or call: `pc + 2` plus the offset, sign-extended and not scaled, modulo 65536 (R53, R125). -/
def relativeTarget (pc : Addr) (off8 : Byte) : Addr := pc + 2#16 + off8.signExtend 16

/-- The offset byte for a jump or call at `addr` to `label` (R62). -/
def labelOffset (addr label : Addr) : Byte := lowByte (label - (addr + 2#16))

/-- The byte that LDLO writes: `0b0000 ## imm4` (R53, R71). -/
def loadLowNibble (imm4 : Nibble) : Byte := 0#4 ++ imm4

/-- The byte that LDHI writes: `imm4` in bits 7:4, bits 3:0 of the old value kept (R53, R72). -/
def loadHighNibble (old : Byte) (imm4 : Nibble) : Byte := imm4 ++ old.extractLsb' 0 4

end Sys2Proof.Machine
end

