-- ==== Sys2Proof/Machine/Arithmetic.lean ====
section
/-! DEFINITION. Arithmetic (spec/42_arithmetic.md R90 to R100): unsigned 8-bit, operands read before anything is written. -/

namespace Sys2Proof.Machine

/-- Writes an 8-bit result to Rx with Z and N from it and C as given, and moves on. Shared by every instruction of this shape. -/
def State.writeResult (s : State) (xn : RegNum) (r : Byte) (c : Bool) : StepResult :=
  .next (((s.setReg xn r).setFlags (resultFlags r c)).advance 2)

/-- The shared adder of ADD and ADC: an exact sum, cut to 8 bits (R90). -/
def State.addInto (s : State) (xn : RegNum) (sum : Nat) : StepResult := s.writeResult xn (sumByte sum) (sumCarry sum)

/-- The shared subtractor of SUB and SBC: an exact difference, cut to 8 bits (R90). -/
def State.subInto (s : State) (xn : RegNum) (b : Byte) (c : Bool) : StepResult :=
  s.writeResult xn (diffByte (exactDiff (s.reg xn) b c)) (diffBorrow (s.reg xn) b c)

/-- ADD Rx, Ry (R91). -/
def execAdd (xn yn : RegNum) (s : State) : StepResult := s.addInto xn ((s.reg xn).toNat + (s.reg yn).toNat)

/-- ADC Rx, Ry (R92): the old C is a third addend. -/
def execAdc (xn yn : RegNum) (s : State) : StepResult :=
  s.addInto xn ((s.reg xn).toNat + (s.reg yn).toNat + s.flags.c.toNat)

/-- SUB Rx, Ry (R93): C is a borrow. -/
def execSub (xn yn : RegNum) (s : State) : StepResult := s.subInto xn (s.reg yn) false

/-- SBC Rx, Ry (R94): the old C is an incoming borrow. -/
def execSbc (xn yn : RegNum) (s : State) : StepResult := s.subInto xn (s.reg yn) s.flags.c

/-- INC Rx (R95): C on the wrap from `$FF`. The low nibble of the operand byte is ignored (R58). -/
def execInc (xn : RegNum) (_unused : Nibble) (s : State) : StepResult :=
  s.writeResult xn (s.reg xn + 1#8) (s.reg xn == 0xFF#8)

/-- DEC Rx (R96): C on the wrap from `$00`. The low nibble of the operand byte is ignored (R58). -/
def execDec (xn : RegNum) (_unused : Nibble) (s : State) : StepResult :=
  s.writeResult xn (s.reg xn - 1#8) (s.reg xn == 0#8)

/-- CMP Rx, Ry (R97): no register is written. -/
def execCmp (xn yn : RegNum) (s : State) : StepResult :=
  .next ((s.setFlags (compareFlags (s.reg xn) (s.reg yn))).advance 2)

/-- MUL Rx, Ry (R98): the product's high byte to Rx, then its low byte to Rx+1. -/
def execMul (xn yn : RegNum) (s : State) : StepResult :=
  let p := (s.reg xn).toNat * (s.reg yn).toNat
  let p16 : Addr := BitVec.ofNat 16 p
  .next ((((s.setReg xn (highByte p16)).setReg (nextReg xn) (lowByte p16)).setFlags (productFlags p)).advance 2)

/-- Quotient and remainder of DIV (R99). For a zero divisor: `$FF` and the dividend, or, under DIV0 = fault, nothing (conflict C7,
log 7). -/
def divideBytes (d : DivZero) (a b : Byte) : Option (Byte × Byte) :=
  if b = 0#8 then
    match d with
    | .documented => some (0xFF#8, a)
    | .fault => none
  else some (BitVec.ofNat 8 (a.toNat / b.toNat), BitVec.ofNat 8 (a.toNat % b.toNat))

/-- DIV Rx, Ry (R99): the quotient to Rx, then the remainder to Rx+1; Z and N from the quotient, C cleared. -/
def execDiv (xn yn : RegNum) (s : State) : StepResult :=
  match divideBytes s.cfg.div0 (s.reg xn) (s.reg yn) with
  | some (q, m) => .next ((((s.setReg xn q).setReg (nextReg xn) m).setFlags (resultFlags q false)).advance 2)
  | none => raise (.divideByZero s.pc)

end Sys2Proof.Machine
end

