-- ==== Sys2Proof/Machine/ControlFlow.lean ====
section
/-! DEFINITION. Control flow (spec/44_control_flow.md R125 to R138): no target is checked (R138), no flag is written. -/

namespace Sys2Proof.Machine

/-- The shared conditional relative jump: taken when `cond` holds, else on to the next instruction (R128 to R132). -/
def State.jumpIf (s : State) (cond : Bool) (off8 : Byte) : StepResult :=
  .next (if cond then s.setPc (relativeTarget s.pc off8) else s.advance 2)

/-- JMP offset (R126). -/
def execJmp (off8 : Byte) (s : State) : StepResult := .next (s.setPc (relativeTarget s.pc off8))

/-- JMPL Rx, Ry (R127). -/
def execJmpl (xn yn : RegNum) (s : State) : StepResult := .next (s.setPc (s.pairValue xn yn))

/-- JZ offset (R128). -/
def execJz (off8 : Byte) (s : State) : StepResult := s.jumpIf s.flags.z off8

/-- JNZ offset (R129). -/
def execJnz (off8 : Byte) (s : State) : StepResult := s.jumpIf (!s.flags.z) off8

/-- JC offset (R130). -/
def execJc (off8 : Byte) (s : State) : StepResult := s.jumpIf s.flags.c off8

/-- JNC offset (R131). -/
def execJnc (off8 : Byte) (s : State) : StepResult := s.jumpIf (!s.flags.c) off8

/-- JN offset (R132). -/
def execJn (off8 : Byte) (s : State) : StepResult := s.jumpIf s.flags.n off8

/-- CALL offset (R133). -/
def execCall (off8 : Byte) (s : State) : StepResult :=
  .next ((s.pushReturn (s.pc + 2#16)).setPc (relativeTarget s.pc off8))

/-- CALLL Rx, Ry (R134, conflict C1): the target is formed after SP was written. -/
def execCalll (xn yn : RegNum) (s : State) : StepResult :=
  let s1 := s.pushReturn (s.pc + 2#16)
  .next (s1.setPc (s1.pairValue xn yn))

/-- The pop of a return address: the high byte at SP, the low byte at SP + 1, then SP goes up by 2 (R135). -/
def State.popReturn (s : State) : StepResult :=
  match s.memRead s.sp with
  | .error f => raise f
  | .ok hi =>
    match s.memRead (s.sp + 1#16) with
    | .error f => raise f
    | .ok lo => .next ((s.setSp (s.sp + 2#16)).setPc (joinBytes hi lo))

/-- RET (R135). The operand byte is ignored unless STRICT_OPERAND holds (R59). -/
def execRet (unused : Byte) (s : State) : StepResult :=
  match s.operandFault 0x59#8 unused with
  | some f => raise f
  | none => s.popReturn

end Sys2Proof.Machine
end

