-- ==== Sys2Proof/Machine/DataMovement.lean ====
section
/-! DEFINITION. Data movement (spec/40_data_movement.md R70 to R76): no flag and no data memory is touched. -/

namespace Sys2Proof.Machine

/-- LDLO Rx, #imm (R71). -/
def execLdlo (xn : RegNum) (imm4 : Nibble) (s : State) : StepResult :=
  .next ((s.setReg xn (loadLowNibble imm4)).advance 2)

/-- LDHI Rx, #imm (R72): the low nibble of Rx is kept. -/
def execLdhi (xn : RegNum) (imm4 : Nibble) (s : State) : StepResult :=
  .next ((s.setReg xn (loadHighNibble (s.reg xn) imm4)).advance 2)

/-- LDI0 #imm (R73). -/
def execLdi0 (imm8 : Byte) (s : State) : StepResult := .next ((s.setReg 0#4 imm8).advance 2)

/-- LDI16 Rx, Ry (R74): Rx is written first, so with `xn = yn` the second byte stays. -/
def execLdi16 (xn yn : RegNum) (hi lo : Byte) (s : State) : StepResult :=
  .next (((s.setReg xn hi).setReg yn lo).advance 4)

/-- MOV Rx, Ry (R75). -/
def execMov (xn yn : RegNum) (s : State) : StepResult := .next ((s.setReg xn (s.reg yn)).advance 2)

/-- SWAP Rx, Ry (R76). -/
def execSwap (xn yn : RegNum) (s : State) : StepResult :=
  .next (((s.setReg xn (s.reg yn)).setReg yn (s.reg xn)).advance 2)

end Sys2Proof.Machine
end

