-- ==== Sys2Proof/Machine/Logical.lean ====
section
/-! DEFINITION. Logical operations (spec/43_logical.md R110 to R117): AND, OR, XOR and NOT clear C, SHL and SHR rotate through C,
TEST keeps C. -/

namespace Sys2Proof.Machine

/-- AND Rx, Ry (R111). -/
def execAnd (xn yn : RegNum) (s : State) : StepResult := s.writeResult xn (s.reg xn &&& s.reg yn) false

/-- OR Rx, Ry (R112). -/
def execOr (xn yn : RegNum) (s : State) : StepResult := s.writeResult xn (s.reg xn ||| s.reg yn) false

/-- XOR Rx, Ry (R113). -/
def execXor (xn yn : RegNum) (s : State) : StepResult := s.writeResult xn (s.reg xn ^^^ s.reg yn) false

/-- NOT Rx (R114, conflict C2). The low nibble of the operand byte is ignored (R58). -/
def execNot (xn : RegNum) (_unused : Nibble) (s : State) : StepResult := s.writeResult xn (~~~(s.reg xn)) false

/-- SHL Rx (R115): the old C enters bit 0 and bit 7 leaves into C. The low nibble of the operand byte is ignored (R58). -/
def execShl (xn : RegNum) (_unused : Nibble) (s : State) : StepResult :=
  s.writeResult xn (rotateLeftByte (s.reg xn) s.flags.c) ((s.reg xn).getLsbD 7)

/-- SHR Rx (R116): the old C enters bit 7 and bit 0 leaves into C. The low nibble of the operand byte is ignored (R58). -/
def execShr (xn : RegNum) (_unused : Nibble) (s : State) : StepResult :=
  s.writeResult xn (rotateRightByte (s.reg xn) s.flags.c) ((s.reg xn).getLsbD 0)

/-- TEST Rx, Ry (R117): no register is written and C is kept. -/
def execTest (xn yn : RegNum) (s : State) : StepResult :=
  .next ((s.setFlags (testFlags s.flags (s.reg xn &&& s.reg yn))).advance 2)

end Sys2Proof.Machine
end

