-- ==== Sys2Proof/Machine/MemoryAccess.lean ====
section
/-! DEFINITION. Memory access (spec/41_memory_access.md R80 to R84): one byte, any address, no flag. -/

namespace Sys2Proof.Machine

/-- Loads the byte at `ea` into Ri. Shared by LOAD and LOADZ. -/
def State.loadInto (s : State) (i : RegNum) (ea : Addr) : StepResult :=
  match s.memRead ea with
  | .ok v => .next ((s.setReg i v).advance 2)
  | .error f => raise f

/-- LOAD Rx, Ry (R81): the address is formed before Rx is written. -/
def execLoad (xn yn : RegNum) (s : State) : StepResult := s.loadInto xn (s.pairAddress yn)

/-- STOR Rx, Ry (R82). -/
def execStor (xn yn : RegNum) (s : State) : StepResult :=
  .next ((s.memWrite (s.pairAddress yn) (s.reg xn)).advance 2)

/-- LOADZ #addr (R83). -/
def execLoadz (addr8 : Byte) (s : State) : StepResult := s.loadInto 0#4 (zeroPageAddress addr8)

/-- STORZ #addr (R84). -/
def execStorz (addr8 : Byte) (s : State) : StepResult :=
  .next ((s.memWrite (zeroPageAddress addr8) (s.reg 0#4)).advance 2)

end Sys2Proof.Machine
end

