-- ==== Sys2Proof/Machine/Misc.lean ====
section
/-! DEFINITION. NOP and HLT (spec/46_misc.md R155, R156). -/

namespace Sys2Proof.Machine

/-- NOP (R155). The operand byte is ignored unless STRICT_OPERAND holds (R59). -/
def execNop (unused : Byte) (s : State) : StepResult :=
  match s.operandFault 0x00#8 unused with
  | some f => raise f
  | none => .next (s.advance 2)

/-- HLT (R156): the latch is set and `pc` stays at the HLT. The operand byte is ignored unless STRICT_OPERAND holds (R59). -/
def execHlt (unused : Byte) (s : State) : StepResult :=
  match s.operandFault 0xFF#8 unused with
  | some f => raise f
  | none => .next s.setHalted

end Sys2Proof.Machine
end

