-- ==== Sys2Proof/Machine/Stack.lean ====
section
/-! DEFINITION. Stack operations (spec/45_stack.md R145 to R148): register ranges, no flag, no bounds. -/

namespace Sys2Proof.Machine

/-- PUSH Rx, Ry (R146). -/
def execPush (xn yn : RegNum) (s : State) : StepResult := .next ((s.pushRegs (regRange xn yn)).advance 2)

/-- POP Rx, Ry (R147), in the order that POP_ORDER gives (conflict C4, log 6). -/
def execPop (xn yn : RegNum) (s : State) : StepResult :=
  match s.popRegs (popOrderList s.cfg.popOrder (regRange xn yn)) with
  | .ok s1 => .next (s1.advance 2)
  | .error f => raise f

end Sys2Proof.Machine
end

