-- ==== Sys2Proof/Machine/Dispatch.lean ====
section
/-! DEFINITION. The meaning of each instruction: one arm per constructor, each one call. -/

namespace Sys2Proof.Machine

-- The meaning of an instruction whose opcode byte is at pc (R17); each meaning writes pc itself (R18).
def exec (i : Instr) (s : State) : Host.Outcome State Fault Refusal :=
  match i with
  | .nop u => Sys2Proof.Machine.execNop u s
  | .ldlo x imm => Sys2Proof.Machine.execLdlo x imm s
  | .ldhi x imm => Sys2Proof.Machine.execLdhi x imm s
  | .ldi0 imm => Sys2Proof.Machine.execLdi0 imm s
  | .ldi16 x y h l => Sys2Proof.Machine.execLdi16 x y h l s
  | .mov x y => Sys2Proof.Machine.execMov x y s
  | .swap x y => Sys2Proof.Machine.execSwap x y s
  | .load x y => Sys2Proof.Machine.execLoad x y s
  | .stor x y => Sys2Proof.Machine.execStor x y s
  | .loadz a => Sys2Proof.Machine.execLoadz a s
  | .storz a => Sys2Proof.Machine.execStorz a s
  | .add x y => Sys2Proof.Machine.execAdd x y s
  | .adc x y => Sys2Proof.Machine.execAdc x y s
  | .sub x y => Sys2Proof.Machine.execSub x y s
  | .sbc x y => Sys2Proof.Machine.execSbc x y s
  | .inc x u => Sys2Proof.Machine.execInc x u s
  | .dec x u => Sys2Proof.Machine.execDec x u s
  | .cmp x y => Sys2Proof.Machine.execCmp x y s
  | .mul x y => Sys2Proof.Machine.execMul x y s
  | .div x y => Sys2Proof.Machine.execDiv x y s
  | .and x y => Sys2Proof.Machine.execAnd x y s
  | .or x y => Sys2Proof.Machine.execOr x y s
  | .xor x y => Sys2Proof.Machine.execXor x y s
  | .not x u => Sys2Proof.Machine.execNot x u s
  | .shl x u => Sys2Proof.Machine.execShl x u s
  | .shr x u => Sys2Proof.Machine.execShr x u s
  | .test x y => Sys2Proof.Machine.execTest x y s
  | .jmp o => Sys2Proof.Machine.execJmp o s
  | .jmpl x y => Sys2Proof.Machine.execJmpl x y s
  | .jz o => Sys2Proof.Machine.execJz o s
  | .jnz o => Sys2Proof.Machine.execJnz o s
  | .jc o => Sys2Proof.Machine.execJc o s
  | .jnc o => Sys2Proof.Machine.execJnc o s
  | .jn o => Sys2Proof.Machine.execJn o s
  | .call o => Sys2Proof.Machine.execCall o s
  | .calll x y => Sys2Proof.Machine.execCalll x y s
  | .ret u => Sys2Proof.Machine.execRet u s
  | .push x y => Sys2Proof.Machine.execPush x y s
  | .pop x y => Sys2Proof.Machine.execPop x y s
  | .hlt u => Sys2Proof.Machine.execHlt u s

end Sys2Proof.Machine
end

