-- ==== Sys2Proof/Decode.lean ====
section
/-! DEFINITION. Decoding, encoding and the opcode map (spec/30_encoding.md). -/

namespace Sys2Proof

/-- Bits 7:4 of an operand byte, the field `xxxx` (R51). -/
def highNibble (b : Byte) : BitVec 4 := b.extractLsb' 4 4

/-- Bits 3:0 of an operand byte, the field `yyyy` or `iiii` (R51). -/
def lowNibble (b : Byte) : BitVec 4 := b.extractLsb' 0 4

/-- The operand byte with the fields `x` in bits 7:4 and `y` in bits 3:0 (R51). -/
def joinNibbles (x y : BitVec 4) : Byte := x ++ y

/-- The opcode byte of LDI16, the one instruction of four bytes (R50, R52). -/
def ldi16Opcode : Byte := 0x13#8

/-- The length of an instruction in bytes, decided by its opcode byte alone (R52). -/
def instrLength (op : Byte) : Nat := if op = ldi16Opcode then 4 else 2

/-- Why bytes do not decode. -/
inductive DecodeError where
  /-- The opcode byte is one of the 216 that R56 does not list (R57). -/
  | illegalOpcode (op : Byte)
  /-- Fewer bytes were given than the instruction has; a step never gives too few. -/
  | truncated
  deriving DecidableEq, Repr

/-- The instruction with opcode byte `op`, operand byte `arg` and, for LDI16 only, immediate bytes `hi` and `lo`: the table of
R56 with the fields of R51. `none` for the 216 undefined opcode bytes of R57. -/
def decodeFields (op arg hi lo : Byte) : Option Instr :=
  match op.toNat with
  | 0x00 => some (.nop arg)
  | 0x10 => some (.ldlo (highNibble arg) (lowNibble arg))
  | 0x11 => some (.ldhi (highNibble arg) (lowNibble arg))
  | 0x12 => some (.ldi0 arg)
  | 0x13 => some (.ldi16 (highNibble arg) (lowNibble arg) hi lo)
  | 0x14 => some (.mov (highNibble arg) (lowNibble arg))
  | 0x15 => some (.swap (highNibble arg) (lowNibble arg))
  | 0x20 => some (.load (highNibble arg) (lowNibble arg))
  | 0x21 => some (.stor (highNibble arg) (lowNibble arg))
  | 0x22 => some (.loadz arg)
  | 0x23 => some (.storz arg)
  | 0x30 => some (.add (highNibble arg) (lowNibble arg))
  | 0x31 => some (.adc (highNibble arg) (lowNibble arg))
  | 0x32 => some (.sub (highNibble arg) (lowNibble arg))
  | 0x33 => some (.sbc (highNibble arg) (lowNibble arg))
  | 0x34 => some (.inc (highNibble arg) (lowNibble arg))
  | 0x35 => some (.dec (highNibble arg) (lowNibble arg))
  | 0x36 => some (.cmp (highNibble arg) (lowNibble arg))
  | 0x37 => some (.mul (highNibble arg) (lowNibble arg))
  | 0x38 => some (.div (highNibble arg) (lowNibble arg))
  | 0x40 => some (.and (highNibble arg) (lowNibble arg))
  | 0x41 => some (.or (highNibble arg) (lowNibble arg))
  | 0x42 => some (.xor (highNibble arg) (lowNibble arg))
  | 0x43 => some (.not (highNibble arg) (lowNibble arg))
  | 0x44 => some (.shl (highNibble arg) (lowNibble arg))
  | 0x45 => some (.shr (highNibble arg) (lowNibble arg))
  | 0x46 => some (.test (highNibble arg) (lowNibble arg))
  | 0x50 => some (.jmp arg)
  | 0x51 => some (.jmpl (highNibble arg) (lowNibble arg))
  | 0x52 => some (.jz arg)
  | 0x53 => some (.jnz arg)
  | 0x54 => some (.jc arg)
  | 0x55 => some (.jnc arg)
  | 0x56 => some (.jn arg)
  | 0x57 => some (.call arg)
  | 0x58 => some (.calll (highNibble arg) (lowNibble arg))
  | 0x59 => some (.ret arg)
  | 0x60 => some (.push (highNibble arg) (lowNibble arg))
  | 0x61 => some (.pop (highNibble arg) (lowNibble arg))
  | 0xFF => some (.hlt arg)
  | _ => none

/-- The decoder's answer once the bytes of one instruction are known: the instruction and the bytes after it, or the opcode byte
rejected by name (R57). -/
def decodeAnswer (op : Byte) (found : Option Instr) (rest : List Byte) : Except DecodeError (Instr × List Byte) :=
  match found with
  | some i => .ok (i, rest)
  | none => .error (.illegalOpcode op)

/-- Decodes the instruction that the bytes begin with and gives the bytes that follow it. Total on any bytes; rejects by name. -/
def decode (bytes : List Byte) : Except DecodeError (Instr × List Byte) :=
  match bytes with
  | op :: arg :: rest =>
    if op = ldi16Opcode then
      match rest with
      | hi :: lo :: rest' => decodeAnswer op (decodeFields op arg hi lo) rest'
      | _ => .error .truncated
    else decodeAnswer op (decodeFields op arg 0#8 0#8) rest
  | _ => .error .truncated

/-- The opcode byte of an instruction (R56). -/
def Instr.opcode : Instr → Byte
  | .nop _ => 0x00#8
  | .ldlo _ _ => 0x10#8
  | .ldhi _ _ => 0x11#8
  | .ldi0 _ => 0x12#8
  | .ldi16 _ _ _ _ => 0x13#8
  | .mov _ _ => 0x14#8
  | .swap _ _ => 0x15#8
  | .load _ _ => 0x20#8
  | .stor _ _ => 0x21#8
  | .loadz _ => 0x22#8
  | .storz _ => 0x23#8
  | .add _ _ => 0x30#8
  | .adc _ _ => 0x31#8
  | .sub _ _ => 0x32#8
  | .sbc _ _ => 0x33#8
  | .inc _ _ => 0x34#8
  | .dec _ _ => 0x35#8
  | .cmp _ _ => 0x36#8
  | .mul _ _ => 0x37#8
  | .div _ _ => 0x38#8
  | .and _ _ => 0x40#8
  | .or _ _ => 0x41#8
  | .xor _ _ => 0x42#8
  | .not _ _ => 0x43#8
  | .shl _ _ => 0x44#8
  | .shr _ _ => 0x45#8
  | .test _ _ => 0x46#8
  | .jmp _ => 0x50#8
  | .jmpl _ _ => 0x51#8
  | .jz _ => 0x52#8
  | .jnz _ => 0x53#8
  | .jc _ => 0x54#8
  | .jnc _ => 0x55#8
  | .jn _ => 0x56#8
  | .call _ => 0x57#8
  | .calll _ _ => 0x58#8
  | .ret _ => 0x59#8
  | .push _ _ => 0x60#8
  | .pop _ _ => 0x61#8
  | .hlt _ => 0xFF#8

/-- The operand byte of an instruction, from its fields (R51). -/
def Instr.operandByte : Instr → Byte
  | .nop u => u
  | .ldlo x i => joinNibbles x i
  | .ldhi x i => joinNibbles x i
  | .ldi0 i => i
  | .ldi16 x y _ _ => joinNibbles x y
  | .mov x y => joinNibbles x y
  | .swap x y => joinNibbles x y
  | .load x y => joinNibbles x y
  | .stor x y => joinNibbles x y
  | .loadz a => a
  | .storz a => a
  | .add x y => joinNibbles x y
  | .adc x y => joinNibbles x y
  | .sub x y => joinNibbles x y
  | .sbc x y => joinNibbles x y
  | .inc x u => joinNibbles x u
  | .dec x u => joinNibbles x u
  | .cmp x y => joinNibbles x y
  | .mul x y => joinNibbles x y
  | .div x y => joinNibbles x y
  | .and x y => joinNibbles x y
  | .or x y => joinNibbles x y
  | .xor x y => joinNibbles x y
  | .not x u => joinNibbles x u
  | .shl x u => joinNibbles x u
  | .shr x u => joinNibbles x u
  | .test x y => joinNibbles x y
  | .jmp o => o
  | .jmpl x y => joinNibbles x y
  | .jz o => o
  | .jnz o => o
  | .jc o => o
  | .jnc o => o
  | .jn o => o
  | .call o => o
  | .calll x y => joinNibbles x y
  | .ret u => u
  | .push x y => joinNibbles x y
  | .pop x y => joinNibbles x y
  | .hlt u => u

/-- The bytes after the operand byte: LDI16's two immediate bytes, high byte first, and none for any other (R50, R74). -/
def Instr.immediateBytes : Instr → List Byte
  | .ldi16 _ _ hi lo => [hi, lo]
  | .nop _ => []
  | .ldlo _ _ => []
  | .ldhi _ _ => []
  | .ldi0 _ => []
  | .mov _ _ => []
  | .swap _ _ => []
  | .load _ _ => []
  | .stor _ _ => []
  | .loadz _ => []
  | .storz _ => []
  | .add _ _ => []
  | .adc _ _ => []
  | .sub _ _ => []
  | .sbc _ _ => []
  | .inc _ _ => []
  | .dec _ _ => []
  | .cmp _ _ => []
  | .mul _ _ => []
  | .div _ _ => []
  | .and _ _ => []
  | .or _ _ => []
  | .xor _ _ => []
  | .not _ _ => []
  | .shl _ _ => []
  | .shr _ _ => []
  | .test _ _ => []
  | .jmp _ => []
  | .jmpl _ _ => []
  | .jz _ => []
  | .jnz _ => []
  | .jc _ => []
  | .jnc _ => []
  | .jn _ => []
  | .call _ => []
  | .calll _ _ => []
  | .ret _ => []
  | .push _ _ => []
  | .pop _ _ => []
  | .hlt _ => []

/-- The bytes of an instruction in memory order: opcode at the lower address, operand next (R34, R50). -/
def encode (i : Instr) : List Byte := i.opcode :: i.operandByte :: i.immediateBytes

/-- Bits `8k+7 .. 8k` of a number, as a byte. -/
def byteOfNat (w k : Nat) : Byte := BitVec.ofNat 8 (w >>> (8 * k))

/-- The bytes, in memory order, of an instruction given as a number of `nbits` bits in the numbering of spec/opcode_table.json: the
first 16-bit word `op ## arg` is bits 15:0, a second word bits 31:16, each stored high byte first (R33, R34, log 26). Bits at or
above `nbits` are 0. -/
def tableWordBytes (nbits w : Nat) : List Byte :=
  let v := w % 2 ^ nbits
  [byteOfNat v 1, byteOfNat v 0, byteOfNat v 3, byteOfNat v 2]

/-- The instruction that the decoder reads from a word of spec/opcode_table.json; `none` where it refuses. -/
def decodeTableWord (nbits w : Nat) : Option Instr :=
  match decode (tableWordBytes nbits w) with
  | .ok (i, _) => some i
  | .error _ => none

end Sys2Proof
end

