-- ==== Sys2Proof/Machine/Fetch.lean ====
section
/-! DEFINITION. Fetching and decoding the instruction at `pc` (R5, R36, R47, R57, R163), and placing one there. -/

namespace Sys2Proof.Machine

/-- LDI16's two immediate bytes at `pc + 2` and `pc + 3`; for any other opcode byte nothing is read (R47, R74). -/
def State.fetchImmediate (s : State) (op : Byte) : Except Fault (Byte × Byte) :=
  if op = ldi16Opcode then
    match s.memRead (s.pc + 2#16) with
    | .error f => .error f
    | .ok hi =>
      match s.memRead (s.pc + 3#16) with
      | .error f => .error f
      | .ok lo => .ok (hi, lo)
  else .ok (0#8, 0#8)

/-- Decodes a fetched opcode byte and operand byte, with LDI16's immediate read from memory: IllegalOpcode for the 216 undefined
opcode bytes (R57). -/
def State.decodeFetched (s : State) (op arg : Byte) : Except Fault Instr :=
  match s.fetchImmediate op with
  | .error f => .error f
  | .ok (hi, lo) =>
    match decodeFields op arg hi lo with
    | some i => .ok i
    | none => .error (.illegalOpcode s.pc op)

/-- The instruction at `pc`, with the checks in the order of R163: MisalignedPC, the two bytes every instruction has, then the
opcode. -/
def State.fetch (s : State) : Except Fault Instr :=
  if isOdd s.pc then .error (.misalignedPC s.pc)
  else
    match s.memRead s.pc with
    | .error f => .error f
    | .ok op =>
      match s.memRead (s.pc + 1#16) with
      | .error f => .error f
      | .ok arg => s.decodeFetched op arg

/-- Stores bytes at rising addresses, modulo 65536. -/
def State.placeBytes (s : State) (a : Addr) (bytes : List Byte) : State :=
  match bytes with
  | [] => s
  | v :: rest => (s.memWrite a v).placeBytes (a + 1#16) rest

end Sys2Proof.Machine
end

