-- ==== Sys2Proof/Machine/Step.lean ====
section
/-! DEFINITION. One step of the machine (R5), and the load of one instruction where the next step fetches. -/

namespace Sys2Proof.Machine

/-- One step (R5). Halted: nothing happens (R163, R168, vector HLT-3). Otherwise the instruction at `pc` is fetched, decoded and
performed; its meaning writes `pc`. -/
def step (s : State) : Host.Outcome State Fault Refusal :=
  if s.halted then .next s
  else
    match s.fetch with
    | .error f => raise f
    | .ok i => exec i s

/-- `s` with the instruction that spec/opcode_table.json numbers as `w` stored at `pc`, in the order the hardware stores it (R34).
It stands for the host's load of a program (R6, log 3). -/
def State.withFetchWord (s : State) (nbits w : Nat) : State := s.placeBytes s.pc (tableWordBytes nbits w)

end Sys2Proof.Machine
end

