-- ==== Sys2Proof/Machine/Idioms.lean ====
section
/-! DEFINITION. The idioms that the source suggests (spec/30_encoding.md R63): sequences of real instructions. `Instr` has no
constructor for any of them, and no step depends on this file. -/

namespace Sys2Proof.Machine

/-- The five idioms of R63. -/
inductive Idiom where
  /-- Load any byte into a register. -/
  | loadByte (x : RegNum) (b : Byte)
  /-- Clear a register. -/
  | clear (x : RegNum)
  /-- Test a register for zero. -/
  | testZero (x : RegNum)
  /-- Add the 16-bit number `yh:yl` to `xh:xl`, each named low byte first as the source's example does (conflict C9). -/
  | add16 (xl yl xh yh : RegNum)
  /-- Subtract the 16-bit number `yh:yl` from `xh:xl`, each named low byte first (conflict C9). -/
  | sub16 (xl yl xh yh : RegNum)
  deriving DecidableEq, Repr

/-- The instructions that an idiom stands for, in order (R63). -/
def Idiom.expand (d : Idiom) : List Instr :=
  match d with
  | .loadByte x b => [.ldlo x (lowNibble b), .ldhi x (highNibble b)]
  | .clear x => [.xor x x]
  | .testZero x => [.test x x]
  | .add16 xl yl xh yh => [.add xl yl, .adc xh yh]
  | .sub16 xl yl xh yh => [.sub xl yl, .sbc xh yh]

/-- The bytes of a sequence of instructions, one after another (R50). -/
def encodeAll (l : List Instr) : List Byte :=
  match l with
  | [] => []
  | i :: rest => encode i ++ encodeAll rest

/-- The meanings of a sequence of instructions, one after another, up to the first that gives no next state. -/
def execAll (l : List Instr) (s : State) : StepResult :=
  match l with
  | [] => .next s
  | i :: rest =>
    match exec i s with
    | .next t => execAll rest t
    | .fault f => .fault f
    | .refused r => .refused r

end Sys2Proof.Machine
end

