-- ==== Sys2Proof/Safety.lean ====
section
/-! DEFINITION. The terms that claims are stated in: what a step keeps, the tables of spec/10_state.md that say which instruction
reads or writes what, POP's loop as a relation, and what a run's end is (R170). -/

namespace Sys2Proof

/-! ### The tables of spec/10_state.md -/

/-- Instructions that write Z and N (table of R21). -/
def Instr.writesZN : Instr → Bool
  | .nop _ => false
  | .ldlo _ _ => false
  | .ldhi _ _ => false
  | .ldi0 _ => false
  | .ldi16 _ _ _ _ => false
  | .mov _ _ => false
  | .swap _ _ => false
  | .load _ _ => false
  | .stor _ _ => false
  | .loadz _ => false
  | .storz _ => false
  | .add _ _ => true
  | .adc _ _ => true
  | .sub _ _ => true
  | .sbc _ _ => true
  | .inc _ _ => true
  | .dec _ _ => true
  | .cmp _ _ => true
  | .mul _ _ => true
  | .div _ _ => true
  | .and _ _ => true
  | .or _ _ => true
  | .xor _ _ => true
  | .not _ _ => true
  | .shl _ _ => true
  | .shr _ _ => true
  | .test _ _ => true
  | .jmp _ => false
  | .jmpl _ _ => false
  | .jz _ => false
  | .jnz _ => false
  | .jc _ => false
  | .jnc _ => false
  | .jn _ => false
  | .call _ => false
  | .calll _ _ => false
  | .ret _ => false
  | .push _ _ => false
  | .pop _ _ => false
  | .hlt _ => false

/-- Instructions that write C (table of R21). -/
def Instr.writesC : Instr → Bool
  | .nop _ => false
  | .ldlo _ _ => false
  | .ldhi _ _ => false
  | .ldi0 _ => false
  | .ldi16 _ _ _ _ => false
  | .mov _ _ => false
  | .swap _ _ => false
  | .load _ _ => false
  | .stor _ _ => false
  | .loadz _ => false
  | .storz _ => false
  | .add _ _ => true
  | .adc _ _ => true
  | .sub _ _ => true
  | .sbc _ _ => true
  | .inc _ _ => true
  | .dec _ _ => true
  | .cmp _ _ => true
  | .mul _ _ => true
  | .div _ _ => true
  | .and _ _ => true
  | .or _ _ => true
  | .xor _ _ => true
  | .not _ _ => true
  | .shl _ _ => true
  | .shr _ _ => true
  | .test _ _ => false
  | .jmp _ => false
  | .jmpl _ _ => false
  | .jz _ => false
  | .jnz _ => false
  | .jc _ => false
  | .jnc _ => false
  | .jn _ => false
  | .call _ => false
  | .calll _ _ => false
  | .ret _ => false
  | .push _ _ => false
  | .pop _ _ => false
  | .hlt _ => false

/-- Instructions that read Z (R22). -/
def Instr.readsZ : Instr → Bool
  | .nop _ => false
  | .ldlo _ _ => false
  | .ldhi _ _ => false
  | .ldi0 _ => false
  | .ldi16 _ _ _ _ => false
  | .mov _ _ => false
  | .swap _ _ => false
  | .load _ _ => false
  | .stor _ _ => false
  | .loadz _ => false
  | .storz _ => false
  | .add _ _ => false
  | .adc _ _ => false
  | .sub _ _ => false
  | .sbc _ _ => false
  | .inc _ _ => false
  | .dec _ _ => false
  | .cmp _ _ => false
  | .mul _ _ => false
  | .div _ _ => false
  | .and _ _ => false
  | .or _ _ => false
  | .xor _ _ => false
  | .not _ _ => false
  | .shl _ _ => false
  | .shr _ _ => false
  | .test _ _ => false
  | .jmp _ => false
  | .jmpl _ _ => false
  | .jz _ => true
  | .jnz _ => true
  | .jc _ => false
  | .jnc _ => false
  | .jn _ => false
  | .call _ => false
  | .calll _ _ => false
  | .ret _ => false
  | .push _ _ => false
  | .pop _ _ => false
  | .hlt _ => false

/-- Instructions that read C (R22). -/
def Instr.readsC : Instr → Bool
  | .nop _ => false
  | .ldlo _ _ => false
  | .ldhi _ _ => false
  | .ldi0 _ => false
  | .ldi16 _ _ _ _ => false
  | .mov _ _ => false
  | .swap _ _ => false
  | .load _ _ => false
  | .stor _ _ => false
  | .loadz _ => false
  | .storz _ => false
  | .add _ _ => false
  | .adc _ _ => true
  | .sub _ _ => false
  | .sbc _ _ => true
  | .inc _ _ => false
  | .dec _ _ => false
  | .cmp _ _ => false
  | .mul _ _ => false
  | .div _ _ => false
  | .and _ _ => false
  | .or _ _ => false
  | .xor _ _ => false
  | .not _ _ => false
  | .shl _ _ => true
  | .shr _ _ => true
  | .test _ _ => false
  | .jmp _ => false
  | .jmpl _ _ => false
  | .jz _ => false
  | .jnz _ => false
  | .jc _ => true
  | .jnc _ => true
  | .jn _ => false
  | .call _ => false
  | .calll _ _ => false
  | .ret _ => false
  | .push _ _ => false
  | .pop _ _ => false
  | .hlt _ => false

/-- Instructions that read N (R22). -/
def Instr.readsN : Instr → Bool
  | .nop _ => false
  | .ldlo _ _ => false
  | .ldhi _ _ => false
  | .ldi0 _ => false
  | .ldi16 _ _ _ _ => false
  | .mov _ _ => false
  | .swap _ _ => false
  | .load _ _ => false
  | .stor _ _ => false
  | .loadz _ => false
  | .storz _ => false
  | .add _ _ => false
  | .adc _ _ => false
  | .sub _ _ => false
  | .sbc _ _ => false
  | .inc _ _ => false
  | .dec _ _ => false
  | .cmp _ _ => false
  | .mul _ _ => false
  | .div _ _ => false
  | .and _ _ => false
  | .or _ _ => false
  | .xor _ _ => false
  | .not _ _ => false
  | .shl _ _ => false
  | .shr _ _ => false
  | .test _ _ => false
  | .jmp _ => false
  | .jmpl _ _ => false
  | .jz _ => false
  | .jnz _ => false
  | .jc _ => false
  | .jnc _ => false
  | .jn _ => true
  | .call _ => false
  | .calll _ _ => false
  | .ret _ => false
  | .push _ _ => false
  | .pop _ _ => false
  | .hlt _ => false

/-- Instructions that write memory (10_state.md section 1). -/
def Instr.storesMemory : Instr → Bool
  | .nop _ => false
  | .ldlo _ _ => false
  | .ldhi _ _ => false
  | .ldi0 _ => false
  | .ldi16 _ _ _ _ => false
  | .mov _ _ => false
  | .swap _ _ => false
  | .load _ _ => false
  | .stor _ _ => true
  | .loadz _ => false
  | .storz _ => true
  | .add _ _ => false
  | .adc _ _ => false
  | .sub _ _ => false
  | .sbc _ _ => false
  | .inc _ _ => false
  | .dec _ _ => false
  | .cmp _ _ => false
  | .mul _ _ => false
  | .div _ _ => false
  | .and _ _ => false
  | .or _ _ => false
  | .xor _ _ => false
  | .not _ _ => false
  | .shl _ _ => false
  | .shr _ _ => false
  | .test _ _ => false
  | .jmp _ => false
  | .jmpl _ _ => false
  | .jz _ => false
  | .jnz _ => false
  | .jc _ => false
  | .jnc _ => false
  | .jn _ => false
  | .call _ => true
  | .calll _ _ => true
  | .ret _ => false
  | .push _ _ => true
  | .pop _ _ => false
  | .hlt _ => false

/-- The registers that an instruction can write (the table of uses after R15). -/
def Instr.writtenRegs : Instr → List RegNum
  | .nop _ => []
  | .ldlo x _ => [x]
  | .ldhi x _ => [x]
  | .ldi0 _ => [0#4]
  | .ldi16 x y _ _ => [x, y]
  | .mov x _ => [x]
  | .swap x y => [x, y]
  | .load x _ => [x]
  | .stor _ _ => []
  | .loadz _ => [0#4]
  | .storz _ => []
  | .add x _ => [x]
  | .adc x _ => [x]
  | .sub x _ => [x]
  | .sbc x _ => [x]
  | .inc x _ => [x]
  | .dec x _ => [x]
  | .cmp _ _ => []
  | .mul x _ => [x, Machine.nextReg x]
  | .div x _ => [x, Machine.nextReg x]
  | .and x _ => [x]
  | .or x _ => [x]
  | .xor x _ => [x]
  | .not x _ => [x]
  | .shl x _ => [x]
  | .shr x _ => [x]
  | .test _ _ => []
  | .jmp _ => []
  | .jmpl _ _ => []
  | .jz _ => []
  | .jnz _ => []
  | .jc _ => []
  | .jnc _ => []
  | .jn _ => []
  | .call _ => [14#4, 15#4]
  | .calll _ _ => [14#4, 15#4]
  | .ret _ => [14#4, 15#4]
  | .push _ _ => [14#4, 15#4]
  | .pop x y => 14#4 :: 15#4 :: Machine.regRange x y
  | .hlt _ => []

/-- The ten control transfers (44_control_flow.md). -/
def Instr.isTransfer : Instr → Bool
  | .nop _ => false
  | .ldlo _ _ => false
  | .ldhi _ _ => false
  | .ldi0 _ => false
  | .ldi16 _ _ _ _ => false
  | .mov _ _ => false
  | .swap _ _ => false
  | .load _ _ => false
  | .stor _ _ => false
  | .loadz _ => false
  | .storz _ => false
  | .add _ _ => false
  | .adc _ _ => false
  | .sub _ _ => false
  | .sbc _ _ => false
  | .inc _ _ => false
  | .dec _ _ => false
  | .cmp _ _ => false
  | .mul _ _ => false
  | .div _ _ => false
  | .and _ _ => false
  | .or _ _ => false
  | .xor _ _ => false
  | .not _ _ => false
  | .shl _ _ => false
  | .shr _ _ => false
  | .test _ _ => false
  | .jmp _ => true
  | .jmpl _ _ => true
  | .jz _ => true
  | .jnz _ => true
  | .jc _ => true
  | .jnc _ => true
  | .jn _ => true
  | .call _ => true
  | .calll _ _ => true
  | .ret _ => true
  | .push _ _ => false
  | .pop _ _ => false
  | .hlt _ => false

namespace Machine

/-! ### What a state keeps of another -/

/-- Every register outside `l` is as before. -/
def State.KeepsRegsBut (s t : State) (l : List RegNum) : Prop := ∀ r, r ∉ l → t.reg r = s.reg r

/-- Every byte of memory reads as before. -/
def State.KeepsMem (s t : State) : Prop := ∀ a, t.memByte a = s.memByte a

/-- Every byte of memory outside `l` reads as before. -/
def State.KeepsMemBut (s t : State) (l : List Addr) : Prop := ∀ a, a ∉ l → t.memByte a = s.memByte a

/-- The halt latch and the configuration are as before. -/
def State.KeepsMode (s t : State) : Prop := t.halted = s.halted ∧ t.cfg = s.cfg

/-- Z and N as `setZN(r)` leaves them: Z exactly when `r` is 0, N exactly when bit 7 of `r` is set (00_scope.md section 5.3). -/
def Flags.DescribeZN (f : Flags) (r : Byte) : Prop := (f.z = true ↔ r.toNat = 0) ∧ (f.n = true ↔ 128 ≤ r.toNat)

/-- The two bytes of an instruction decode to `i`, whatever bytes follow. -/
def DecodesTo (op arg : Byte) (i : Instr) : Prop := ∀ rest, decode (op :: arg :: rest) = .ok (i, rest)

/-- The bytes lie in memory from address `a` upward, modulo 65536. -/
def State.HoldsBytes (s : State) (a : Addr) (bytes : List Byte) : Prop :=
  ∀ (k : Nat) (v : Byte), bytes[k]? = some v → s.memByte (a + BitVec.ofNat 16 k) = some v

/-- Every byte of memory holds a value. -/
def State.AllLoaded (s : State) : Prop := ∀ a, (s.memByte a).isSome = true

/-- `s` with other flags. -/
def State.withFlags (s : State) (f : Flags) : State := { s with flags := f }

/-! ### POP's loop as a relation -/

/-- `Pops l s t`: popping the registers of `l` one after another leads from `s` to `t` (R147): each gets the byte at SP, and SP, as
it is then, goes up by 1. -/
inductive Pops : List RegNum → State → State → Prop where
  | done (s : State) : Pops [] s s
  | pop {i : RegNum} {rest : List RegNum} {s t : State} {v : Byte} (hv : s.memByte s.sp = some v)
      (hrest : Pops rest ((s.setReg i v).setSp ((s.setReg i v).sp + 1#16)) t) : Pops (i :: rest) s t

/-! ### Runs -/

/-- `n` steps, stopping at the first fault. -/
def stepN (n : Nat) (s : State) : StepResult :=
  match n with
  | 0 => .next s
  | k + 1 =>
    match step s with
    | .next t => stepN k t
    | .fault f => .fault f
    | .refused r => .refused r

/-- A run from `s` ends successfully in `t`. From a running `s`, where every run of the spec begins, this says that a step executed
HLT (R170, log 29). A state that is already halted counts as a successful end of a run from itself, at no steps, although no step of
it executed HLT: the spec speaks of no such run, and this is the model's choice (DESIGN CHOICE, log 32). -/
def EndsSuccessfully (s t : State) : Prop := ∃ n, stepN n s = .next t ∧ t.halted = true

/-- A safe run: no number of steps reaches a model fault (R161). -/
def NeverFaults (s : State) : Prop := ∀ n, ∃ t, stepN n s = .next t

end Machine

end Sys2Proof
end

