-- ==== Sys2Proof/WellFormed.lean ====
section
/-! DEFINITION. Which instructions a correct program holds: the form checks of spec/30_encoding.md R55, R58, R59. Decoding and
execution do not depend on them; register numbers and immediates are in range by their types. -/

namespace Sys2Proof

/-- The bits that the hardware ignores are 0, "as an assembler is expected to emit" them (R58, R59). -/
def Instr.canonical : Instr → Bool
  | .nop u => u == 0
  | .ldlo _ _ => true
  | .ldhi _ _ => true
  | .ldi0 _ => true
  | .ldi16 _ _ _ _ => true
  | .mov _ _ => true
  | .swap _ _ => true
  | .load _ _ => true
  | .stor _ _ => true
  | .loadz _ => true
  | .storz _ => true
  | .add _ _ => true
  | .adc _ _ => true
  | .sub _ _ => true
  | .sbc _ _ => true
  | .inc _ u => u == 0
  | .dec _ u => u == 0
  | .cmp _ _ => true
  | .mul _ _ => true
  | .div _ _ => true
  | .and _ _ => true
  | .or _ _ => true
  | .xor _ _ => true
  | .not _ u => u == 0
  | .shl _ u => u == 0
  | .shr _ u => u == 0
  | .test _ _ => true
  | .jmp _ => true
  | .jmpl _ _ => true
  | .jz _ => true
  | .jnz _ => true
  | .jc _ => true
  | .jnc _ => true
  | .jn _ => true
  | .call _ => true
  | .calll _ _ => true
  | .ret u => u == 0
  | .push _ _ => true
  | .pop _ _ => true
  | .hlt u => u == 0

/-- The offset of a relative jump or call is even, so that its target can be an instruction's address (R55, R183). -/
def Instr.offsetEven : Instr → Bool
  | .nop _ => true
  | .ldlo _ _ => true
  | .ldhi _ _ => true
  | .ldi0 _ => true
  | .ldi16 _ _ _ _ => true
  | .mov _ _ => true
  | .swap _ _ => true
  | .load _ _ => true
  | .stor _ _ => true
  | .loadz _ => true
  | .storz _ => true
  | .add _ _ => true
  | .adc _ _ => true
  | .sub _ _ => true
  | .sbc _ _ => true
  | .inc _ _ => true
  | .dec _ _ => true
  | .cmp _ _ => true
  | .mul _ _ => true
  | .div _ _ => true
  | .and _ _ => true
  | .or _ _ => true
  | .xor _ _ => true
  | .not _ _ => true
  | .shl _ _ => true
  | .shr _ _ => true
  | .test _ _ => true
  | .jmp o => !o.getLsbD 0
  | .jmpl _ _ => true
  | .jz o => !o.getLsbD 0
  | .jnz o => !o.getLsbD 0
  | .jc o => !o.getLsbD 0
  | .jnc o => !o.getLsbD 0
  | .jn o => !o.getLsbD 0
  | .call o => !o.getLsbD 0
  | .calll _ _ => true
  | .ret _ => true
  | .push _ _ => true
  | .pop _ _ => true
  | .hlt _ => true

/-- An instruction in the form that the spec asks of software (R183): canonical and with an even offset. -/
def Instr.wellFormed (i : Instr) : Bool := i.canonical && i.offsetEven

end Sys2Proof
end

