-- ==== Sys2Proof/Certificates/Slice0/Obligations.lean ====
section
/-! DEFINITION. The statements for the provers. Rule numbers are those of spec/. A sum on a 16-bit address is modulo 65536, which
for the program counter and for effective addresses is the spec's decision D1 (R4, log 10). -/

open Sys2Proof Sys2Proof.Machine

/-! ### Encoding -/

/-- Decoding the bytes of an instruction gives that instruction, with every field at every value, and the bytes after it
(R50, R51, R56). That the bits the hardware ignores in formats R and N are fields too is the model's choice (DESIGN CHOICE, log
27). -/
def Obligations.DecodeInvertsEncode : Prop :=
  ∀ (i : Instr) (rest : List Byte), decode (encode i ++ rest) = .ok (i, rest)

/-- Bytes that decode are the encoding of the instruction they decode to, followed by the rest: no bit is dropped. For the bits that
the hardware ignores in formats R and N this is the model's choice, not the spec's: it keeps them in the constructor (DESIGN CHOICE,
log 27), where R50 and R51 say only that they are ignored. -/
def Obligations.EncodeInvertsDecode : Prop :=
  ∀ (bytes rest : List Byte) (i : Instr), decode bytes = .ok (i, rest) → encode i ++ rest = bytes

/-- The 216 opcode bytes of R57, range by range, and no others, are rejected by the decoder; a running machine that fetches one of
them stops with IllegalOpcode. That the hardware's silence is a fault is the spec's decision D3 (log 12). -/
def Obligations.UndefinedOpcodesStopTheStep : Prop :=
  ∀ op arg : Byte,
    let n := op.toNat
    let undefinedOpcode := (0x01 ≤ n ∧ n ≤ 0x0F) ∨ (0x16 ≤ n ∧ n ≤ 0x1F) ∨ (0x24 ≤ n ∧ n ≤ 0x2F) ∨ (0x39 ≤ n ∧ n ≤ 0x3F) ∨
      (0x47 ≤ n ∧ n ≤ 0x4F) ∨ (0x5A ≤ n ∧ n ≤ 0x5F) ∨ (0x62 ≤ n ∧ n ≤ 0xFE)
    (∀ (hi lo : Byte) (rest : List Byte),
      decode (op :: arg :: hi :: lo :: rest) = .error (.illegalOpcode op) ↔ undefinedOpcode) ∧
    (∀ s : State, undefinedOpcode → s.halted = false → isOdd s.pc = false → s.memByte s.pc = some op →
      s.memByte (s.pc + 1#16) = some arg → step s = .fault (.illegalOpcode s.pc op))

/-- Words written out from the spec's encodings decode to the instructions they stand for (examples of R71, R74, R81, R95, R126). -/
def Obligations.SampleWordsDecode : Prop :=
  decode [0x10, 0x3A] = .ok (.ldlo 3 0xA, []) ∧
  decode [0x13, 0xEF, 0x7F, 0x00] = .ok (.ldi16 14 15 0x7F 0x00, []) ∧
  decode [0x20, 0x12] = .ok (.load 1 2, []) ∧
  decode [0x34, 0x3F] = .ok (.inc 3 0xF, []) ∧
  decode [0x50, 0xF6] = .ok (.jmp 0xF6, []) ∧
  decode [0xFF, 0x00, 0x12] = .ok (.hlt 0x00, [0x12]) ∧
  decode [0x62, 0x13] = .error (.illegalOpcode 0x62)

/-- An offset byte computed for a label takes a relative jump or call at `addr` to that label, if the label lies within -128 to
+127 bytes of the address after the instruction (R62). -/
def Obligations.LabelOffsetReachesLabel : Prop :=
  ∀ (addr label : Addr) (d : Int), -128 ≤ d → d ≤ 127 → (label.toNat : Int) = (addr.toNat + 2 + d) % 65536 →
    relativeTarget addr (labelOffset addr label) = label

/-! ### Reset, fetch and step -/

/-- For any values of the open parameters, the machine after reset is running (R28: `halted` is 0) and has exactly those values. -/
def Obligations.ResetRunsWithItsParameters : Prop :=
  ∀ p : ResetParams, (State.resetWith p).halted = false ∧ (State.resetWith p).pc = p.pc ∧
    (∀ r : RegNum, (State.resetWith p).reg r = p.regs[r.toNat]'(r.isLt)) ∧ (State.resetWith p).flags = p.flags ∧
    (∀ a : Addr, (State.resetWith p).memByte a = p.mem.read a.toNat) ∧ (State.resetWith p).cfg = p.cfg

/-- The model's own named reset state: registers, flags and `pc` are 0 (DESIGN CHOICE, logs 1, 2 and 3), memory holds no value
(log 4), the parameters are at the spec's defaults, and the machine runs. -/
def Obligations.NamedResetState : Prop :=
  (∀ r : RegNum, State.reset.reg r = 0#8) ∧ State.reset.flags = ⟨false, false, false⟩ ∧ State.reset.pc = 0#16 ∧
    State.reset.halted = false ∧ (∀ a : Addr, State.reset.memByte a = none) ∧
    State.reset.cfg = ⟨.ascending, .documented, false⟩

/-- A step runs the decoded instruction: where the bytes at an even `pc` of a running machine decode to an instruction, the step is
that instruction's meaning at that state; step adds nothing around it (R5, R17, R47). -/
def Obligations.StepRunsDecodedInstruction : Prop :=
  ∀ (s : State) (bytes rest : List Byte) (i : Instr), s.halted = false → isOdd s.pc = false → s.HoldsBytes s.pc bytes →
    decode bytes = .ok (i, rest) → step s = exec i s

/-- Loading an instruction's word where the next step fetches makes the next step run that instruction, and changes nothing but
memory at the four bytes from `pc` on. The word's numbering is that of the opcode table (log 26). -/
def Obligations.WithFetchWordRunsTheWord : Prop :=
  ∀ (s : State) (nbits w : Nat) (i : Instr), s.halted = false → isOdd s.pc = false → decodeTableWord nbits w = some i →
    step (s.withFetchWord nbits w) = exec i (s.withFetchWord nbits w) ∧
    s.KeepsRegsBut (s.withFetchWord nbits w) [] ∧ (s.withFetchWord nbits w).pc = s.pc ∧
    (s.withFetchWord nbits w).flags = s.flags ∧ s.KeepsMode (s.withFetchWord nbits w) ∧
    s.KeepsMemBut (s.withFetchWord nbits w) [s.pc, s.pc + 1#16, s.pc + 2#16, s.pc + 3#16]

/-- The checks that a step makes up to the end of the fetch, in the order of R163: halted, MisalignedPC, the fetch of the opcode
byte and then the operand byte, IllegalOpcode, then for LDI16 its two immediate bytes. The checks that R163 puts after these
(NonCanonicalOperand, the other operand reads, DivideByZero) are not in it. MisalignedPC and IllegalOpcode are the spec's decisions
D2 and D3 (logs 11 and 12). The rest is the model's choice: that a halted machine's step answers the same state (DEDUCED, log 9),
that a byte holding no value is the fault UnwrittenRead and no free draw (DESIGN CHOICE, log 4), and which of two such bytes is
reported (DESIGN CHOICE, log 23). -/
def Obligations.FetchChecksInFixedOrder : Prop :=
  ∀ s : State,
    (s.halted = true → step s = .next s) ∧
    (s.halted = false → isOdd s.pc = true → step s = .fault (.misalignedPC s.pc)) ∧
    (s.halted = false → isOdd s.pc = false →
      (s.memByte s.pc = none → step s = .fault (.unwrittenRead s.pc)) ∧
      (∀ op : Byte, s.memByte s.pc = some op →
        (s.memByte (s.pc + 1#16) = none → step s = .fault (.unwrittenRead (s.pc + 1#16))) ∧
        (∀ arg : Byte, s.memByte (s.pc + 1#16) = some arg →
          (op ≠ 0x13#8 → decodeFields op arg 0#8 0#8 = none → step s = .fault (.illegalOpcode s.pc op)) ∧
          (op = 0x13#8 → s.memByte (s.pc + 2#16) = none → step s = .fault (.unwrittenRead (s.pc + 2#16))) ∧
          (op = 0x13#8 → (s.memByte (s.pc + 2#16)).isSome = true → s.memByte (s.pc + 3#16) = none →
            step s = .fault (.unwrittenRead (s.pc + 3#16))))))

/-- A halted machine stays as it is, for any number of steps (R168; vector HLT-3). That such a step is counted at all is the model's
choice (log 9). -/
def Obligations.HaltedMachineStays : Prop :=
  ∀ (s : State) (n : Nat), s.halted = true → stepN n s = .next s

/-- HLT is the only way from running to halted, and the step that takes it changes the halt latch alone (R168). -/
def Obligations.OnlyHltHalts : Prop :=
  ∀ s t : State, s.halted = false → step s = .next t →
    (t.halted = true ↔ ∃ u : Byte, s.fetch = .ok (.hlt u)) ∧
    (t.halted = true → t.pc = s.pc ∧ s.KeepsRegsBut t [] ∧ t.flags = s.flags ∧ s.KeepsMem t ∧ t.cfg = s.cfg)

/-- A run of a running machine ends successfully exactly when a step of it executes HLT; the final state is the state at that HLT
with the latch set (R170, the spec's decision D18). -/
def Obligations.RunEndsExactlyAtHlt : Prop :=
  ∀ s t : State, s.halted = false →
    (EndsSuccessfully s t ↔ ∃ (n : Nat) (r : State) (u : Byte), stepN n s = .next r ∧ r.halted = false ∧ r.fetch = .ok (.hlt u) ∧
      exec (.hlt u) r = .next t)

/-! ### Faults -/

/-- No instruction is refused, at any state; nor is any step. -/
def Obligations.NothingIsRefused : Prop :=
  (∀ (i : Instr) (s : State) (r : Refusal), exec i s ≠ .refused r) ∧ (∀ (s : State) (r : Refusal), step s ≠ .refused r)

/-- An instruction stops in three cases only: LOAD, LOADZ, RET or POP reads a byte that holds no value, where the fault and no free
draw is the model's choice (decision D10; DESIGN CHOICE, log 4); NOP, RET or HLT has a non-zero operand byte under STRICT_OPERAND
(decision D4, log 8); DIV has a zero divisor under DIV0 = fault (decision D8, log 7) (R161). -/
def Obligations.InstructionFaultsOnlyAsListed : Prop :=
  ∀ (i : Instr) (s : State) (f : Fault), exec i s = .fault f →
    (∃ a : Addr, f = .unwrittenRead a ∧ s.memByte a = none ∧
      ((∃ x y, i = .load x y) ∨ (∃ b, i = .loadz b) ∨ (∃ u, i = .ret u) ∨ (∃ x y, i = .pop x y))) ∨
    (s.cfg.strictOperand = true ∧ ∃ u : Byte, u ≠ 0#8 ∧
      ((i = .nop u ∧ f = .nonCanonicalOperand s.pc 0x00#8 u) ∨ (i = .ret u ∧ f = .nonCanonicalOperand s.pc 0x59#8 u) ∨
        (i = .hlt u ∧ f = .nonCanonicalOperand s.pc 0xFF#8 u))) ∨
    (s.cfg.div0 = .fault ∧ ∃ x y : RegNum, i = .div x y ∧ s.reg y = 0#8 ∧ f = .divideByZero s.pc)

/-- Under the spec's default configuration, with every byte of memory holding a value, every instruction completes: stack wrap,
overwritten code, odd targets, division by zero, ignored bits and arithmetic wrap are no faults (R172). -/
def Obligations.EveryInstructionCompletesOnLoadedMemory : Prop :=
  ∀ (i : Instr) (s : State), s.cfg = Config.default → s.AllLoaded → ∃ t, exec i s = .next t ∧ t.AllLoaded ∧ t.cfg = Config.default

/-! ### Invariants of every step -/

/-- Every step keeps the canonical form of memory: addresses rising, all within the 65536 locations (R27, R30). -/
def Obligations.StepKeepsMemoryCanonical : Prop :=
  ∀ s t : State, s.mem.wf = true → step s = .next t → t.mem.wf = true

/-- After reset the canonical form holds, for any image that has it (R28). -/
def Obligations.ResetMemoryCanonical : Prop :=
  State.reset.mem.wf = true ∧ ∀ p : ResetParams, p.mem.wf = true → (State.resetWith p).mem.wf = true

/-- No step changes the configuration, and no step takes from a byte of memory the value that it holds (R31, R41). -/
def Obligations.StepKeepsConfigurationAndLoadedBytes : Prop :=
  ∀ s t : State, step s = .next t → t.cfg = s.cfg ∧ ∀ a : Addr, (s.memByte a).isSome = true → (t.memByte a).isSome = true

/-- An even `pc` stays even across every instruction but JMPL, CALLL and RET, provided that a relative jump or call has an even
offset (R19, R55). -/
def Obligations.EvenProgramCounterStaysEven : Prop :=
  ∀ (i : Instr) (s t : State), exec i s = .next t → isOdd s.pc = false → i.offsetEven = true →
    (∀ x y : RegNum, i ≠ .jmpl x y) → (∀ x y : RegNum, i ≠ .calll x y) → (∀ u : Byte, i ≠ .ret u) → isOdd t.pc = false

/-! ### Rules over all instructions -/

/-- Flags change only by the instructions that list them (R21, R23): Z and N by the writers of Z and N, C by the writers of C. -/
def Obligations.FlagsChangeOnlyByTheirWriters : Prop :=
  ∀ (i : Instr) (s t : State), exec i s = .next t →
    (i.writesZN = false → t.flags.z = s.flags.z ∧ t.flags.n = s.flags.n) ∧ (i.writesC = false → t.flags.c = s.flags.c)

/-- A flag is read only by the instructions of R22: for any other instruction, starting with that flag at another value changes
neither whether the instruction completes nor any register, `pc`, the memory, the latch, the configuration or another flag. -/
def Obligations.FlagsReadOnlyByTheirReaders : Prop :=
  ∀ (i : Instr) (s t : State) (b : Bool), exec i s = .next t →
    (i.readsZ = false → ∃ z, exec i (s.withFlags { s.flags with z := b }) = .next (t.withFlags { t.flags with z := z })) ∧
    (i.readsC = false → ∃ c, exec i (s.withFlags { s.flags with c := b }) = .next (t.withFlags { t.flags with c := c })) ∧
    (i.readsN = false → ∃ n, exec i (s.withFlags { s.flags with n := b }) = .next (t.withFlags { t.flags with n := n }))

/-- Memory is written only by STOR, STORZ, CALL, CALLL and PUSH (10_state.md section 1). -/
def Obligations.MemoryWrittenOnlyByStores : Prop :=
  ∀ (i : Instr) (s t : State), exec i s = .next t → i.storesMemory = false → s.KeepsMem t

/-- A register changes only by an instruction that the table of uses lists as writing it (10_state.md, after R15). -/
def Obligations.RegistersWrittenOnlyAsTabulated : Prop :=
  ∀ (i : Instr) (s t : State), exec i s = .next t → s.KeepsRegsBut t i.writtenRegs

/-- How each instruction leaves `pc`: the table of R18, line by line, every sum modulo 65536 (the spec's decision D1, log 10).
CALLL's target is read from the registers as the instruction leaves them, that is after SP moved, which for R14 and R15 is the
spec's own decision D16 (R134, log 15) and not in R18; RET's is read from the two bytes at SP. -/
def Obligations.ProgramCounterAfterEachInstruction : Prop :=
  ∀ (i : Instr) (s t : State), exec i s = .next t →
    let goes (d : Int) : Prop := (t.pc.toNat : Int) = (s.pc.toNat + d) % 65536
    match i with
    | .ldi16 _ _ _ _ => goes 4
    | .jmp off => goes (2 + off.toInt)
    | .jz off => goes (2 + if s.flags.z then off.toInt else 0)
    | .jnz off => goes (2 + if s.flags.z then 0 else off.toInt)
    | .jc off => goes (2 + if s.flags.c then off.toInt else 0)
    | .jnc off => goes (2 + if s.flags.c then 0 else off.toInt)
    | .jn off => goes (2 + if s.flags.n then off.toInt else 0)
    | .call off => goes (2 + off.toInt)
    | .jmpl x y => t.pc.toNat = 256 * (s.reg x).toNat + (s.reg y).toNat
    | .calll x y => t.pc.toNat = 256 * (t.reg x).toNat + (t.reg y).toNat
    | .ret _ => ∃ hi lo : Byte, s.memByte s.sp = some hi ∧ s.memByte (s.sp + 1#16) = some lo ∧
        t.pc.toNat = 256 * hi.toNat + lo.toNat
    | .hlt _ => t.pc = s.pc
    | _ => goes 2

/-! ### Data movement -/

/-- LDLO, LDHI and LDI0: LDLO writes the immediate with a zero upper nibble; LDHI puts it in the upper nibble and keeps the lower;
LDI0 writes the whole byte to R0. Nothing else changes but `pc` (R71, R72, R73). -/
def Obligations.LoadImmediateResults : Prop :=
  ∀ s : State,
    (∀ (x : RegNum) (imm : Nibble), DecodesTo 0x10 (joinNibbles x imm) (.ldlo x imm) ∧
      ∃ t, exec (.ldlo x imm) s = .next t ∧ (t.reg x).toNat = imm.toNat ∧ s.KeepsRegsBut t [x] ∧ t.flags = s.flags ∧
        s.KeepsMem t ∧ s.KeepsMode t ∧ t.pc = s.pc + 2#16) ∧
    (∀ (x : RegNum) (imm : Nibble), DecodesTo 0x11 (joinNibbles x imm) (.ldhi x imm) ∧
      ∃ t, exec (.ldhi x imm) s = .next t ∧ (t.reg x).toNat = 16 * imm.toNat + (s.reg x).toNat % 16 ∧ s.KeepsRegsBut t [x] ∧
        t.flags = s.flags ∧ s.KeepsMem t ∧ s.KeepsMode t ∧ t.pc = s.pc + 2#16) ∧
    (∀ imm : Byte, DecodesTo 0x12 imm (.ldi0 imm) ∧
      ∃ t, exec (.ldi0 imm) s = .next t ∧ t.reg 0#4 = imm ∧ s.KeepsRegsBut t [0#4] ∧ t.flags = s.flags ∧ s.KeepsMem t ∧
        s.KeepsMode t ∧ t.pc = s.pc + 2#16)

/-- LDI16: the second byte goes to Ry and the first to Rx; where both fields name one register the second byte stays (the spec's
decision D16, log 15). `pc` advances by 4 (R74). -/
def Obligations.LoadImmediate16Result : Prop :=
  ∀ (x y : RegNum) (hi lo : Byte) (s : State),
    (∀ rest, decode (0x13#8 :: joinNibbles x y :: hi :: lo :: rest) = .ok (.ldi16 x y hi lo, rest)) ∧
    ∃ t, exec (.ldi16 x y hi lo) s = .next t ∧ t.reg y = lo ∧ (x ≠ y → t.reg x = hi) ∧ s.KeepsRegsBut t [x, y] ∧
      t.flags = s.flags ∧ s.KeepsMem t ∧ s.KeepsMode t ∧ t.pc = s.pc + 4#16

/-- MOV copies Ry to Rx; SWAP exchanges them, and is a no-op on one register. Nothing else changes but `pc` (R75, R76). -/
def Obligations.MoveAndSwapResults : Prop :=
  ∀ (x y : RegNum) (s : State),
    (DecodesTo 0x14 (joinNibbles x y) (.mov x y) ∧
      ∃ t, exec (.mov x y) s = .next t ∧ t.reg x = s.reg y ∧ s.KeepsRegsBut t [x] ∧ t.flags = s.flags ∧ s.KeepsMem t ∧
        s.KeepsMode t ∧ t.pc = s.pc + 2#16) ∧
    (DecodesTo 0x15 (joinNibbles x y) (.swap x y) ∧
      ∃ t, exec (.swap x y) s = .next t ∧ t.reg x = s.reg y ∧ t.reg y = s.reg x ∧ s.KeepsRegsBut t [x, y] ∧ t.flags = s.flags ∧
        s.KeepsMem t ∧ s.KeepsMode t ∧ t.pc = s.pc + 2#16)

/-- LDLO and then LDHI on one register load any byte there, and leave the flags alone (R72: "allows loading any 8-bit value in 2
instructions"). -/
def Obligations.TwoNibbleLoadsMakeAnyByte : Prop :=
  ∀ (x : RegNum) (b : Byte) (s t : State), exec (.ldlo x (lowNibble b)) s = .next t →
    ∃ u, exec (.ldhi x (highNibble b)) t = .next u ∧ u.reg x = b ∧ s.KeepsRegsBut u [x] ∧ u.flags = s.flags ∧ u.pc = s.pc + 4#16

/-! ### Memory access -/

/-- LOAD and LOADZ: where the byte at the effective address holds a value, the destination gets it, the address registers being
read first, and nothing else changes but `pc`. LOAD's address has Ry as its high byte and the next register, modulo 16, as its low
byte; LOADZ's is the operand byte (R80, R81, R83). A byte that holds no value is UnwrittenRead (R163, log 4). -/
def Obligations.LoadResults : Prop :=
  ∀ s : State,
    (∀ (x y : RegNum), DecodesTo 0x20 (joinNibbles x y) (.load x y) ∧
      ∀ a : Addr, a.toNat = 256 * (s.reg y).toNat + (s.reg (y + 1#4)).toNat →
        (∀ v : Byte, s.memByte a = some v → ∃ t, exec (.load x y) s = .next t ∧ t.reg x = v ∧ s.KeepsRegsBut t [x] ∧
          t.flags = s.flags ∧ s.KeepsMem t ∧ s.KeepsMode t ∧ t.pc = s.pc + 2#16) ∧
        (s.memByte a = none → exec (.load x y) s = .fault (.unwrittenRead a))) ∧
    (∀ b : Byte, DecodesTo 0x22 b (.loadz b) ∧
      ∀ a : Addr, a.toNat = b.toNat →
        (∀ v : Byte, s.memByte a = some v → ∃ t, exec (.loadz b) s = .next t ∧ t.reg 0#4 = v ∧ s.KeepsRegsBut t [0#4] ∧
          t.flags = s.flags ∧ s.KeepsMem t ∧ s.KeepsMode t ∧ t.pc = s.pc + 2#16) ∧
        (s.memByte a = none → exec (.loadz b) s = .fault (.unwrittenRead a)))

/-- STOR and STORZ store one byte, Rx or R0, at the address that the operands give; no register, no flag and no other byte of
memory changes (R80, R82, R84). -/
def Obligations.StoreResults : Prop :=
  ∀ s : State,
    (∀ (x y : RegNum), DecodesTo 0x21 (joinNibbles x y) (.stor x y) ∧
      (s.pairAddress y).toNat = 256 * (s.reg y).toNat + (s.reg (y + 1#4)).toNat ∧
      ∃ t, exec (.stor x y) s = .next t ∧ t.memByte (s.pairAddress y) = some (s.reg x) ∧ s.KeepsMemBut t [s.pairAddress y] ∧
        s.KeepsRegsBut t [] ∧ t.flags = s.flags ∧ s.KeepsMode t ∧ t.pc = s.pc + 2#16) ∧
    (∀ b : Byte, DecodesTo 0x23 b (.storz b) ∧ (zeroPageAddress b).toNat = b.toNat ∧
      ∃ t, exec (.storz b) s = .next t ∧ t.memByte (zeroPageAddress b) = some (s.reg 0#4) ∧
        s.KeepsMemBut t [zeroPageAddress b] ∧ s.KeepsRegsBut t [] ∧ t.flags = s.flags ∧ s.KeepsMode t ∧ t.pc = s.pc + 2#16)

/-- A store is seen by the next fetch with nothing in between (R45, the spec's decision D13, log 19): where a STOR at `pc` writes
the operand byte of the two-byte instruction after it, the next step runs that instruction with the stored byte. -/
def Obligations.StoreIsSeenByTheNextFetch : Prop :=
  ∀ (s t : State) (x y : RegNum) (op : Byte) (i : Instr), s.halted = false → s.fetch = .ok (.stor x y) →
    s.memByte (s.pc + 2#16) = some op → s.pairAddress y = s.pc + 3#16 →
    decode [op, s.reg x] = .ok (i, []) → step s = .next t → step t = exec i t

/-! ### Arithmetic -/

/-- ADD and ADC: the exact sum, with the old C as a third addend for ADC, cut to 8 bits; C when it passed `$FF`; Z and N from the
stored byte (the spec's decision D6, log 14). Only Rx, the flags and `pc` change (R90, R91, R92). -/
def Obligations.AdditionResults : Prop :=
  ∀ (x y : RegNum) (s : State),
    (DecodesTo 0x30 (joinNibbles x y) (.add x y) ∧
      ∃ t, exec (.add x y) s = .next t ∧ (t.reg x).toNat = ((s.reg x).toNat + (s.reg y).toNat) % 256 ∧
        (t.flags.c = true ↔ 255 < (s.reg x).toNat + (s.reg y).toNat) ∧ t.flags.DescribeZN (t.reg x) ∧
        s.KeepsRegsBut t [x] ∧ s.KeepsMem t ∧ s.KeepsMode t ∧ t.pc = s.pc + 2#16) ∧
    (DecodesTo 0x31 (joinNibbles x y) (.adc x y) ∧
      ∃ t, exec (.adc x y) s = .next t ∧ (t.reg x).toNat = ((s.reg x).toNat + (s.reg y).toNat + s.flags.c.toNat) % 256 ∧
        (t.flags.c = true ↔ 255 < (s.reg x).toNat + (s.reg y).toNat + s.flags.c.toNat) ∧ t.flags.DescribeZN (t.reg x) ∧
        s.KeepsRegsBut t [x] ∧ s.KeepsMem t ∧ s.KeepsMode t ∧ t.pc = s.pc + 2#16)

/-- SUB and SBC: the exact difference, less the old C for SBC, cut to 8 bits; C is the borrow, `b + c` not being cut; Z and N from
the stored byte (for SBC the spec's decision D6, log 14). Only Rx, the flags and `pc` change (R90, R93, R94). -/
def Obligations.SubtractionResults : Prop :=
  ∀ (x y : RegNum) (s : State),
    (DecodesTo 0x32 (joinNibbles x y) (.sub x y) ∧
      ∃ t, exec (.sub x y) s = .next t ∧ ((t.reg x).toNat : Int) = ((s.reg x).toNat - (s.reg y).toNat : Int) % 256 ∧
        (t.flags.c = true ↔ (s.reg x).toNat < (s.reg y).toNat) ∧ t.flags.DescribeZN (t.reg x) ∧
        s.KeepsRegsBut t [x] ∧ s.KeepsMem t ∧ s.KeepsMode t ∧ t.pc = s.pc + 2#16) ∧
    (DecodesTo 0x33 (joinNibbles x y) (.sbc x y) ∧
      ∃ t, exec (.sbc x y) s = .next t ∧
        ((t.reg x).toNat : Int) = ((s.reg x).toNat - (s.reg y).toNat - s.flags.c.toNat : Int) % 256 ∧
        (t.flags.c = true ↔ (s.reg x).toNat < (s.reg y).toNat + s.flags.c.toNat) ∧ t.flags.DescribeZN (t.reg x) ∧
        s.KeepsRegsBut t [x] ∧ s.KeepsMem t ∧ s.KeepsMode t ∧ t.pc = s.pc + 2#16)

/-- INC and DEC: one more or one less, modulo 256, whatever the ignored low nibble; C exactly on the wrap; Z and N from the stored
byte (R95, R96). -/
def Obligations.IncrementAndDecrementResults : Prop :=
  ∀ (x : RegNum) (u : Nibble) (s : State),
    (DecodesTo 0x34 (joinNibbles x u) (.inc x u) ∧
      ∃ t, exec (.inc x u) s = .next t ∧ (t.reg x).toNat = ((s.reg x).toNat + 1) % 256 ∧
        (t.flags.c = true ↔ (s.reg x).toNat = 255) ∧ t.flags.DescribeZN (t.reg x) ∧
        s.KeepsRegsBut t [x] ∧ s.KeepsMem t ∧ s.KeepsMode t ∧ t.pc = s.pc + 2#16) ∧
    (DecodesTo 0x35 (joinNibbles x u) (.dec x u) ∧
      ∃ t, exec (.dec x u) s = .next t ∧ (t.reg x).toNat = ((s.reg x).toNat + 255) % 256 ∧
        (t.flags.c = true ↔ (s.reg x).toNat = 0) ∧ t.flags.DescribeZN (t.reg x) ∧
        s.KeepsRegsBut t [x] ∧ s.KeepsMem t ∧ s.KeepsMode t ∧ t.pc = s.pc + 2#16)

/-- CMP writes the flags that SUB would and no register: Z on equality, C on Rx below Ry, N bit 7 of the wrapped difference
(R97). -/
def Obligations.CompareResult : Prop :=
  ∀ (x y : RegNum) (s : State), DecodesTo 0x36 (joinNibbles x y) (.cmp x y) ∧
    ∃ t, exec (.cmp x y) s = .next t ∧ (t.flags.z = true ↔ s.reg x = s.reg y) ∧
      (t.flags.c = true ↔ (s.reg x).toNat < (s.reg y).toNat) ∧
      (t.flags.n = true ↔ 128 ≤ ((s.reg x).toNat - (s.reg y).toNat : Int) % 256) ∧
      (∀ u, exec (.sub x y) s = .next u → t.flags = u.flags) ∧
      s.KeepsRegsBut t [] ∧ s.KeepsMem t ∧ s.KeepsMode t ∧ t.pc = s.pc + 2#16

/-- After CMP, the conditional jumps decide the unsigned comparisons of the source's list: JZ goes on equal, JNZ on not equal, JC on
Rx below Ry, JNC on Rx at least Ry (R97, R128 to R131). -/
def Obligations.CompareThenJumpDecides : Prop :=
  ∀ (x y : RegNum) (off : Byte) (s t : State), exec (.cmp x y) s = .next t →
    let a := (s.reg x).toNat
    let b := (s.reg y).toNat
    let taken := relativeTarget t.pc off
    let next := t.pc + 2#16
    (∃ u, exec (.jz off) t = .next u ∧ (a = b → u.pc = taken) ∧ (a ≠ b → u.pc = next)) ∧
    (∃ u, exec (.jnz off) t = .next u ∧ (a ≠ b → u.pc = taken) ∧ (a = b → u.pc = next)) ∧
    (∃ u, exec (.jc off) t = .next u ∧ (a < b → u.pc = taken) ∧ (b ≤ a → u.pc = next)) ∧
    (∃ u, exec (.jnc off) t = .next u ∧ (b ≤ a → u.pc = taken) ∧ (a < b → u.pc = next))

/-- ADD of the low bytes and then ADC of the high bytes add two 16-bit numbers, modulo 65536, with C the carry out, provided that
the first destination is not an operand of the second (R92's example of use). -/
def Obligations.AddThenAdcAddsSixteenBits : Prop :=
  ∀ (xl yl xh yh : RegNum) (s t : State), xl ≠ xh → xl ≠ yh → exec (.add xl yl) s = .next t →
    ∃ u, exec (.adc xh yh) t = .next u ∧
      let total := 256 * (s.reg xh).toNat + (s.reg xl).toNat + (256 * (s.reg yh).toNat + (s.reg yl).toNat)
      256 * (u.reg xh).toNat + (u.reg xl).toNat = total % 65536 ∧ (u.flags.c = true ↔ 65536 ≤ total)

/-- SUB of the low bytes and then SBC of the high bytes subtract two 16-bit numbers, modulo 65536, with C the borrow out, provided
that the first destination is not an operand of the second (R94's example of use). -/
def Obligations.SubThenSbcSubtractsSixteenBits : Prop :=
  ∀ (xl yl xh yh : RegNum) (s t : State), xl ≠ xh → xl ≠ yh → exec (.sub xl yl) s = .next t →
    ∃ u, exec (.sbc xh yh) t = .next u ∧
      let m : Int := 256 * (s.reg xh).toNat + (s.reg xl).toNat
      let k : Int := 256 * (s.reg yh).toNat + (s.reg yl).toNat
      (256 * (u.reg xh).toNat + (u.reg xl).toNat : Int) = (m - k) % 65536 ∧ (u.flags.c = true ↔ m < k)

/-- MUL: Rx and the register after it, modulo 16, hold the high and low byte of the product of the old Rx and Ry; Z on a zero
16-bit product (the spec's decision D20, log 16), C on a product above 255, N bit 7 of the low byte (R98). -/
def Obligations.MultiplyResult : Prop :=
  ∀ (x y : RegNum) (s : State), DecodesTo 0x37 (joinNibbles x y) (.mul x y) ∧
    ∃ t, exec (.mul x y) s = .next t ∧
      256 * (t.reg x).toNat + (t.reg (x + 1#4)).toNat = (s.reg x).toNat * (s.reg y).toNat ∧
      (t.flags.z = true ↔ (s.reg x).toNat * (s.reg y).toNat = 0) ∧
      (t.flags.c = true ↔ 255 < (s.reg x).toNat * (s.reg y).toNat) ∧
      (t.flags.n = true ↔ 128 ≤ (t.reg (x + 1#4)).toNat) ∧
      s.KeepsRegsBut t [x, x + 1#4] ∧ s.KeepsMem t ∧ s.KeepsMode t ∧ t.pc = s.pc + 2#16

/-- DIV: for a non-zero divisor Rx gets the quotient and the register after it the remainder. For a zero divisor, under
DIV0 = documented Rx gets `$FF` and the register after it the old Rx (conflict C7, log 7); under DIV0 = fault the step stops with
DivideByZero. Z and N from the quotient, C cleared (R99). -/
def Obligations.DivideResult : Prop :=
  ∀ (x y : RegNum) (s : State), DecodesTo 0x38 (joinNibbles x y) (.div x y) ∧
    (s.reg y = 0#8 → s.cfg.div0 = .fault → exec (.div x y) s = .fault (.divideByZero s.pc)) ∧
    (s.reg y ≠ 0#8 ∨ s.cfg.div0 = .documented →
      ∃ t, exec (.div x y) s = .next t ∧
        (s.reg y ≠ 0#8 → (t.reg x).toNat * (s.reg y).toNat + (t.reg (x + 1#4)).toNat = (s.reg x).toNat ∧
          (t.reg (x + 1#4)).toNat < (s.reg y).toNat) ∧
        (s.reg y = 0#8 → t.reg x = 0xFF#8 ∧ t.reg (x + 1#4) = s.reg x) ∧
        t.flags.c = false ∧ t.flags.DescribeZN (t.reg x) ∧
        s.KeepsRegsBut t [x, x + 1#4] ∧ s.KeepsMem t ∧ s.KeepsMode t ∧ t.pc = s.pc + 2#16)

/-! ### Logical operations -/

/-- AND, OR and XOR, bit by bit: C is cleared, Z and N come from the stored byte, only Rx, the flags and `pc` change (R111, R112,
R113). -/
def Obligations.BitwiseResults : Prop :=
  ∀ (x y : RegNum) (s : State),
    (DecodesTo 0x40 (joinNibbles x y) (.and x y) ∧
      ∃ t, exec (.and x y) s = .next t ∧ (∀ k, (t.reg x).getLsbD k = ((s.reg x).getLsbD k && (s.reg y).getLsbD k)) ∧
        t.flags.c = false ∧ t.flags.DescribeZN (t.reg x) ∧ s.KeepsRegsBut t [x] ∧ s.KeepsMem t ∧ s.KeepsMode t ∧
        t.pc = s.pc + 2#16) ∧
    (DecodesTo 0x41 (joinNibbles x y) (.or x y) ∧
      ∃ t, exec (.or x y) s = .next t ∧ (∀ k, (t.reg x).getLsbD k = ((s.reg x).getLsbD k || (s.reg y).getLsbD k)) ∧
        t.flags.c = false ∧ t.flags.DescribeZN (t.reg x) ∧ s.KeepsRegsBut t [x] ∧ s.KeepsMem t ∧ s.KeepsMode t ∧
        t.pc = s.pc + 2#16) ∧
    (DecodesTo 0x42 (joinNibbles x y) (.xor x y) ∧
      ∃ t, exec (.xor x y) s = .next t ∧ (∀ k, (t.reg x).getLsbD k = ((s.reg x).getLsbD k != (s.reg y).getLsbD k)) ∧
        (t.flags.z = true ↔ s.reg x = s.reg y) ∧
        t.flags.c = false ∧ t.flags.DescribeZN (t.reg x) ∧ s.KeepsRegsBut t [x] ∧ s.KeepsMem t ∧ s.KeepsMode t ∧
        t.pc = s.pc + 2#16)

/-- NOT writes 255 less the old Rx, whatever the ignored low nibble; Z is set exactly when Rx was `$FF` (conflict C2), N is the
complement of the old bit 7, C is cleared (R114). Two NOTs restore Rx. -/
def Obligations.ComplementResult : Prop :=
  ∀ (x : RegNum) (u v : Nibble) (s : State), DecodesTo 0x43 (joinNibbles x u) (.not x u) ∧
    ∃ t, exec (.not x u) s = .next t ∧ (t.reg x).toNat = 255 - (s.reg x).toNat ∧ (t.flags.z = true ↔ s.reg x = 0xFF#8) ∧
      (t.flags.n = true ↔ (s.reg x).toNat < 128) ∧ t.flags.c = false ∧ t.flags.DescribeZN (t.reg x) ∧
      s.KeepsRegsBut t [x] ∧ s.KeepsMem t ∧ s.KeepsMode t ∧ t.pc = s.pc + 2#16 ∧
      ∃ w, exec (.not x v) t = .next w ∧ w.reg x = s.reg x

/-- SHL and SHR, as numbers: SHL doubles and adds the old C, its bit 8 going to C; SHR halves and adds the old C in bit 7, the bit
halved away going to C. Z and N come from the stored byte, whatever the ignored low nibble (R115, R116). -/
def Obligations.RotateResults : Prop :=
  ∀ (x : RegNum) (u : Nibble) (s : State),
    (DecodesTo 0x44 (joinNibbles x u) (.shl x u) ∧
      ∃ t, exec (.shl x u) s = .next t ∧
        256 * t.flags.c.toNat + (t.reg x).toNat = 2 * (s.reg x).toNat + s.flags.c.toNat ∧ t.flags.DescribeZN (t.reg x) ∧
        s.KeepsRegsBut t [x] ∧ s.KeepsMem t ∧ s.KeepsMode t ∧ t.pc = s.pc + 2#16) ∧
    (DecodesTo 0x45 (joinNibbles x u) (.shr x u) ∧
      ∃ t, exec (.shr x u) s = .next t ∧
        2 * (t.reg x).toNat + t.flags.c.toNat = 256 * s.flags.c.toNat + (s.reg x).toNat ∧ t.flags.n = s.flags.c ∧
        t.flags.DescribeZN (t.reg x) ∧ s.KeepsRegsBut t [x] ∧ s.KeepsMem t ∧ s.KeepsMode t ∧ t.pc = s.pc + 2#16)

/-- Nine SHLs of one register restore it and C: a rotate over 9 bits (R115); so do nine SHRs, the rotate the other way (R116). -/
def Obligations.NineRotatesRestore : Prop :=
  ∀ (x : RegNum) (u : Nibble) (s0 : State) (run : Nat → State), run 0 = s0 →
    ((∀ k, k < 9 → exec (.shl x u) (run k) = .next (run (k + 1))) →
      (run 9).reg x = s0.reg x ∧ (run 9).flags.c = s0.flags.c) ∧
    ((∀ k, k < 9 → exec (.shr x u) (run k) = .next (run (k + 1))) →
      (run 9).reg x = s0.reg x ∧ (run 9).flags.c = s0.flags.c)

/-- TEST writes Z and N from the bitwise AND and nothing else: C, both registers and memory are kept (R117). -/
def Obligations.TestResult : Prop :=
  ∀ (x y : RegNum) (s : State), DecodesTo 0x46 (joinNibbles x y) (.test x y) ∧
    ∃ t, exec (.test x y) s = .next t ∧
      (t.flags.z = true ↔ ∀ k, k < 8 → ((s.reg x).getLsbD k && (s.reg y).getLsbD k) = false) ∧
      t.flags.n = ((s.reg x).getLsbD 7 && (s.reg y).getLsbD 7) ∧ t.flags.c = s.flags.c ∧
      s.KeepsRegsBut t [] ∧ s.KeepsMem t ∧ s.KeepsMode t ∧ t.pc = s.pc + 2#16

/-! ### Control flow -/

/-- JMP goes to `pc + 2` plus the signed offset, modulo 65536; JMPL to Rx:Ry. Nothing but `pc` changes (R125, R126, R127). -/
def Obligations.JumpResults : Prop :=
  ∀ s : State,
    (∀ off : Byte, DecodesTo 0x50 off (.jmp off) ∧
      ∃ t, exec (.jmp off) s = .next t ∧ (t.pc.toNat : Int) = (s.pc.toNat + 2 + off.toInt) % 65536 ∧
        s.KeepsRegsBut t [] ∧ t.flags = s.flags ∧ s.KeepsMem t ∧ s.KeepsMode t) ∧
    (∀ x y : RegNum, DecodesTo 0x51 (joinNibbles x y) (.jmpl x y) ∧
      ∃ t, exec (.jmpl x y) s = .next t ∧ t.pc.toNat = 256 * (s.reg x).toNat + (s.reg y).toNat ∧
        s.KeepsRegsBut t [] ∧ t.flags = s.flags ∧ s.KeepsMem t ∧ s.KeepsMode t)

/-- The five conditional jumps: each tests one flag and goes to `pc + 2` plus the signed offset, or to `pc + 2`. Nothing but `pc`
changes (R125, R128 to R132). -/
def Obligations.ConditionalJumpResults : Prop :=
  ∀ (off : Byte) (s : State),
    let jumps (i : Instr) (taken : Bool) : Prop :=
      ∃ t, exec i s = .next t ∧
        (t.pc.toNat : Int) = (s.pc.toNat + 2 + if taken then off.toInt else 0) % 65536 ∧
        s.KeepsRegsBut t [] ∧ t.flags = s.flags ∧ s.KeepsMem t ∧ s.KeepsMode t
    (DecodesTo 0x52 off (.jz off) ∧ jumps (.jz off) (s.flags.z)) ∧
    (DecodesTo 0x53 off (.jnz off) ∧ jumps (.jnz off) (!s.flags.z)) ∧
    (DecodesTo 0x54 off (.jc off) ∧ jumps (.jc off) (s.flags.c)) ∧
    (DecodesTo 0x55 off (.jnc off) ∧ jumps (.jnc off) (!s.flags.c)) ∧
    (DecodesTo 0x56 off (.jn off) ∧ jumps (.jn off) (s.flags.n))

/-- CALL: SP goes down by 2; the address of the instruction after the CALL is stored there, high byte at the lower address; `pc`
goes to the relative target. No other register, no flag and no other byte changes (R133). -/
def Obligations.CallResult : Prop :=
  ∀ (off : Byte) (s : State), DecodesTo 0x57 off (.call off) ∧
    ∃ t, exec (.call off) s = .next t ∧ t.sp = s.sp - 2#16 ∧
      t.memByte (s.sp - 2#16) = some (highByte (s.pc + 2#16)) ∧ t.memByte (s.sp - 1#16) = some (lowByte (s.pc + 2#16)) ∧
      (t.pc.toNat : Int) = (s.pc.toNat + 2 + off.toInt) % 65536 ∧
      s.KeepsMemBut t [s.sp - 2#16, s.sp - 1#16] ∧ s.KeepsRegsBut t [14#4, 15#4] ∧ t.flags = s.flags ∧ s.KeepsMode t

/-- CALLL pushes as CALL does (conflict C1, log 22) and goes to Rx:Ry; where Rx or Ry is R14 or R15 it is read after SP moved (the
spec's decision D16, log 15) (R134). -/
def Obligations.CallLongResult : Prop :=
  ∀ (x y : RegNum) (s : State), DecodesTo 0x58 (joinNibbles x y) (.calll x y) ∧
    ∃ t, exec (.calll x y) s = .next t ∧ t.sp = s.sp - 2#16 ∧
      t.memByte (s.sp - 2#16) = some (highByte (s.pc + 2#16)) ∧ t.memByte (s.sp - 1#16) = some (lowByte (s.pc + 2#16)) ∧
      t.pc.toNat = 256 * (t.reg x).toNat + (t.reg y).toNat ∧
      s.KeepsMemBut t [s.sp - 2#16, s.sp - 1#16] ∧ s.KeepsRegsBut t [14#4, 15#4] ∧ t.flags = s.flags ∧ s.KeepsMode t

/-- RET, where its operand byte is admitted: `pc` gets the two bytes at SP, high byte first, and SP goes up by 2; nothing else
changes. A byte that holds no value is UnwrittenRead (log 4). Under STRICT_OPERAND a non-zero operand byte is NonCanonicalOperand
before any effect (decision D4, log 8) (R59, R135). -/
def Obligations.ReturnResult : Prop :=
  ∀ (u : Byte) (s : State), DecodesTo 0x59 u (.ret u) ∧
    (s.cfg.strictOperand = true → u ≠ 0#8 → exec (.ret u) s = .fault (.nonCanonicalOperand s.pc 0x59#8 u)) ∧
    (s.cfg.strictOperand = false ∨ u = 0#8 →
      (∀ hi lo : Byte, s.memByte s.sp = some hi → s.memByte (s.sp + 1#16) = some lo →
        ∃ t, exec (.ret u) s = .next t ∧ t.pc.toNat = 256 * hi.toNat + lo.toNat ∧ t.sp = s.sp + 2#16 ∧
          s.KeepsRegsBut t [14#4, 15#4] ∧ t.flags = s.flags ∧ s.KeepsMem t ∧ s.KeepsMode t) ∧
      (s.memByte s.sp = none → exec (.ret u) s = .fault (.unwrittenRead s.sp)) ∧
      ((s.memByte s.sp).isSome = true → s.memByte (s.sp + 1#16) = none →
        exec (.ret u) s = .fault (.unwrittenRead (s.sp + 1#16))))

/-- A return undoes a call: after CALL or CALLL, from any state that has the same SP and the same two bytes on the stack, RET goes to
the instruction after the call and SP is what it was before it (R133, R134, R135, R136). -/
def Obligations.ReturnUndoesCall : Prop :=
  ∀ (i : Instr) (s t r : State), ((∃ off, i = .call off) ∨ ∃ x y, i = .calll x y) → exec i s = .next t → r.sp = t.sp →
    r.memByte t.sp = t.memByte t.sp → r.memByte (t.sp + 1#16) = t.memByte (t.sp + 1#16) →
    ∃ v, exec (.ret 0#8) r = .next v ∧ v.pc = s.pc + 2#16 ∧ v.sp = s.sp

/-! ### The stack -/

/-- The register range of PUSH and POP: it starts at Rx, counts up by one modulo 16, ends at Ry, has `((yn - xn) mod 16) + 1`
members, and holds none twice (R145). -/
def Obligations.RegisterRangeCountsUp : Prop :=
  ∀ x y : RegNum,
    ((regRange x y).length : Int) = ((y.toNat : Int) - x.toNat) % 16 + 1 ∧ (regRange x y).head? = some x ∧
    (regRange x y).getLast? = some y ∧ (regRange x y).Nodup ∧
    ∀ (k : Nat) (r q : RegNum), (regRange x y)[k]? = some r → (regRange x y)[k + 1]? = some q → q.toNat = (r.toNat + 1) % 16

/-- PUSH, every form: the k-th register of the range is stored at `SP - 1 - k`, a half of SP as it is after the decrement of its own
iteration (the spec's decision D16, log 15), and SP ends at the last byte stored. No other byte, no other register and no flag
changes (R145, R146). -/
def Obligations.PushResult : Prop :=
  ∀ (x y : RegNum) (s : State), DecodesTo 0x60 (joinNibbles x y) (.push x y) ∧
    let n := (y - x).toNat + 1
    let slot (k : Nat) : Addr := s.sp - BitVec.ofNat 16 (k + 1)
    ∃ t, exec (.push x y) s = .next t ∧ t.sp = s.sp - BitVec.ofNat 16 n ∧
      (∀ k, k < n → t.memByte (slot k) = some (
        let i := x + BitVec.ofNat 4 k
        if i = 14#4 then highByte (slot k) else if i = 15#4 then lowByte (slot k) else s.reg i)) ∧
      (∀ a, (∀ k, k < n → a ≠ slot k) → t.memByte a = s.memByte a) ∧
      s.KeepsRegsBut t [14#4, 15#4] ∧ t.flags = s.flags ∧ s.KeepsMode t ∧ t.pc = s.pc + 2#16

/-- POP of a range without R14 and R15, where the bytes it reads hold values: under POP_ORDER = ascending the k-th register of the
range gets the byte at `SP + k`, under descending the k-th from the end does (conflict C4, log 6); SP goes up by their number.
Nothing else changes but `pc` (R145, R147). -/
def Obligations.PopResultForPlainRanges : Prop :=
  ∀ (x y : RegNum) (s : State),
    let n := (y - x).toNat + 1
    (∀ k, k < n → x + BitVec.ofNat 4 k ≠ 14#4 ∧ x + BitVec.ofNat 4 k ≠ 15#4) →
    (∀ k, k < n → (s.memByte (s.sp + BitVec.ofNat 16 k)).isSome = true) →
    DecodesTo 0x61 (joinNibbles x y) (.pop x y) ∧
    ∃ t, exec (.pop x y) s = .next t ∧ t.sp = s.sp + BitVec.ofNat 16 n ∧
      (∀ k, k < n → s.memByte (s.sp + BitVec.ofNat 16 k) = some (t.reg (
        match s.cfg.popOrder with
        | .ascending => x + BitVec.ofNat 4 k
        | .descending => y - BitVec.ofNat 4 k))) ∧
      s.KeepsRegsBut t (14#4 :: 15#4 :: regRange x y) ∧ t.flags = s.flags ∧ s.KeepsMem t ∧ s.KeepsMode t ∧ t.pc = s.pc + 2#16

/-- POP, every form, those with R14 or R15 in the range included: it answers exactly what the loop of R147 leads to, each byte
popped into a half of SP moving SP at once (the spec's decision D16, log 15), in the order that POP_ORDER gives (conflict C4, log
6); it completes where every byte of memory holds a value, and otherwise stops only on a byte that holds none. That such a byte is
the fault UnwrittenRead and no free draw is the model's choice between the two that R161 and D10 offer (DESIGN CHOICE, log 4; R163).
Flags, memory and the registers outside the range and SP are kept. -/
def Obligations.PopFollowsItsLoop : Prop :=
  ∀ (x y : RegNum) (s : State),
    (∀ t, exec (.pop x y) s = .next t ↔
      ∃ u, Pops (popOrderList s.cfg.popOrder (regRange x y)) s u ∧ t = u.setPc (s.pc + 2#16)) ∧
    (∀ t, exec (.pop x y) s = .next t →
      s.KeepsRegsBut t (14#4 :: 15#4 :: regRange x y) ∧ t.flags = s.flags ∧ s.KeepsMem t ∧ s.KeepsMode t) ∧
    (s.AllLoaded → ∃ t, exec (.pop x y) s = .next t) ∧
    (∀ f, exec (.pop x y) s = .fault f → ∃ a, f = .unwrittenRead a ∧ s.memByte a = none)

/-- PUSH and POP of one register, neither half of SP, restore it under both settings of POP_ORDER: from any state with the same SP
and the same byte on the stack, POP gives the pushed value, and SP is what it was before the PUSH (R148). -/
def Obligations.PopUndoesPushOfOneRegister : Prop :=
  ∀ (x y : RegNum) (s t r : State), x ≠ 14#4 → x ≠ 15#4 → y ≠ 14#4 → y ≠ 15#4 → exec (.push x x) s = .next t → r.sp = t.sp →
    r.memByte t.sp = t.memByte t.sp →
    ∃ v, exec (.pop y y) r = .next v ∧ v.reg y = s.reg x ∧ v.sp = s.sp

/-- PUSH and then POP of the same range without R14 and R15: under POP_ORDER = ascending the registers of the range come back
reversed, the k-th getting the old value of the k-th from the end; under descending they come back as they were (R148, conflict
C4). SP is restored under both. -/
def Obligations.PushThenPopReversesOrRestores : Prop :=
  ∀ (x y : RegNum) (s t : State),
    let n := (y - x).toNat + 1
    (∀ k, k < n → x + BitVec.ofNat 4 k ≠ 14#4 ∧ x + BitVec.ofNat 4 k ≠ 15#4) → exec (.push x y) s = .next t →
    ∃ v, exec (.pop x y) t = .next v ∧ v.sp = s.sp ∧ v.flags = s.flags ∧
      (s.cfg.popOrder = .ascending → ∀ k, k < n → v.reg (x + BitVec.ofNat 4 k) = s.reg (y - BitVec.ofNat 4 k)) ∧
      (s.cfg.popOrder = .descending → s.KeepsRegsBut v []) ∧ s.KeepsRegsBut v (regRange x y)

/-! ### NOP and HLT -/

/-- NOP only advances `pc`; HLT sets the halt latch and leaves `pc` at itself; nothing else changes, for any operand byte where
STRICT_OPERAND is false. Under STRICT_OPERAND a non-zero operand byte is NonCanonicalOperand (decision D4, log 8) (R59, R155, R156). -/
def Obligations.NopAndHltResults : Prop :=
  ∀ (u : Byte) (s : State), DecodesTo 0x00 u (.nop u) ∧ DecodesTo 0xFF u (.hlt u) ∧
    (s.cfg.strictOperand = true → u ≠ 0#8 →
      exec (.nop u) s = .fault (.nonCanonicalOperand s.pc 0x00#8 u) ∧
      exec (.hlt u) s = .fault (.nonCanonicalOperand s.pc 0xFF#8 u)) ∧
    (s.cfg.strictOperand = false ∨ u = 0#8 →
      (∃ t, exec (.nop u) s = .next t ∧ t.pc = s.pc + 2#16 ∧ t.halted = s.halted ∧
        s.KeepsRegsBut t [] ∧ t.flags = s.flags ∧ s.KeepsMem t ∧ t.cfg = s.cfg) ∧
      (∃ t, exec (.hlt u) s = .next t ∧ t.pc = s.pc ∧ t.halted = true ∧
        s.KeepsRegsBut t [] ∧ t.flags = s.flags ∧ s.KeepsMem t ∧ t.cfg = s.cfg))

/-! ### Idioms -/

/-- The idioms of R63 are sequences of real instructions. Where the bytes of one lie at an even `pc` of a running machine, as many
steps as it has instructions perform their meanings in order, whatever registers it names. LDLO and LDHI load any byte, and keep the
flags; XOR of a register with itself clears it, and sets Z alone of the flags; TEST of a register with itself sets Z exactly when it
is 0, and N to its bit 7; ADD and ADC add 16-bit numbers, SUB and SBC subtract them, with C the carry or borrow out, provided that
the first destination is not an operand of the second instruction, and Z and N describe the register written last (for Z the spec's
decision D6, log 14). Nothing else changes but `pc`. -/
def Obligations.IdiomsRunAsTheirInstructions : Prop :=
  (∀ (d : Idiom) (s : State), s.halted = false → isOdd s.pc = false → s.HoldsBytes s.pc (encodeAll d.expand) →
    stepN d.expand.length s = execAll d.expand s) ∧
  (∀ s : State,
    (∀ (x : RegNum) (b : Byte), ∃ t, execAll (Idiom.loadByte x b).expand s = .next t ∧ t.reg x = b ∧ s.KeepsRegsBut t [x] ∧
      t.flags = s.flags ∧ s.KeepsMem t ∧ s.KeepsMode t ∧ t.pc = s.pc + 4#16) ∧
    (∀ x : RegNum, ∃ t, execAll (Idiom.clear x).expand s = .next t ∧ t.reg x = 0#8 ∧ s.KeepsRegsBut t [x] ∧
      t.flags = ⟨true, false, false⟩ ∧ s.KeepsMem t ∧ s.KeepsMode t ∧ t.pc = s.pc + 2#16) ∧
    (∀ x : RegNum, ∃ t, execAll (Idiom.testZero x).expand s = .next t ∧ t.flags.DescribeZN (s.reg x) ∧ t.flags.c = s.flags.c ∧
      s.KeepsRegsBut t [] ∧ s.KeepsMem t ∧ s.KeepsMode t ∧ t.pc = s.pc + 2#16) ∧
    (∀ xl yl xh yh : RegNum,
      let m : Int := 256 * (s.reg xh).toNat + (s.reg xl).toNat
      let k : Int := 256 * (s.reg yh).toNat + (s.reg yl).toNat
      let gives (d : Idiom) (n : Int) (c : Prop) : Prop :=
        ∃ t, execAll d.expand s = .next t ∧
          (xl ≠ xh → xl ≠ yh → (256 * (t.reg xh).toNat + (t.reg xl).toNat : Int) = n % 65536 ∧ (t.flags.c = true ↔ c)) ∧
          t.flags.DescribeZN (t.reg xh) ∧ s.KeepsRegsBut t [xl, xh] ∧ s.KeepsMem t ∧ s.KeepsMode t ∧ t.pc = s.pc + 4#16
      gives (.add16 xl yl xh yh) (m + k) (65536 ≤ m + k) ∧ gives (.sub16 xl yl xh yh) (m - k) (m < k)))
end

