-- ==== Sys2Proof/Laws/Bytes.lean ====
section
/-! SUPPORT. Byte order and nibble fields: the numbers the pieces stand for, and taking apart what was put together. -/

namespace Sys2Proof

theorem highNibble_toNat (b : Byte) : (highNibble b).toNat = b.toNat / 16 := by
  have := b.isLt
  simp [highNibble, BitVec.extractLsb'_toNat, Nat.shiftRight_eq_div_pow]
  omega

theorem lowNibble_toNat (b : Byte) : (lowNibble b).toNat = b.toNat % 16 := by
  simp [lowNibble, BitVec.extractLsb'_toNat]

theorem joinNibbles_toNat (x y : BitVec 4) : (joinNibbles x y).toNat = 16 * x.toNat + y.toNat := by
  have := y.isLt
  rw [joinNibbles, BitVec.toNat_append, ← Nat.shiftLeft_add_eq_or_of_lt this, Nat.shiftLeft_eq]
  omega

@[simp] theorem highNibble_joinNibbles (x y : BitVec 4) : highNibble (joinNibbles x y) = x := by
  have := y.isLt
  apply BitVec.eq_of_toNat_eq
  rw [highNibble_toNat, joinNibbles_toNat]
  omega

@[simp] theorem lowNibble_joinNibbles (x y : BitVec 4) : lowNibble (joinNibbles x y) = y := by
  have := y.isLt
  apply BitVec.eq_of_toNat_eq
  rw [lowNibble_toNat, joinNibbles_toNat]
  omega

@[simp] theorem joinNibbles_nibbles (b : Byte) : joinNibbles (highNibble b) (lowNibble b) = b := by
  apply BitVec.eq_of_toNat_eq
  rw [joinNibbles_toNat, highNibble_toNat, lowNibble_toNat]
  omega

namespace Machine

theorem joinBytes_toNat (h l : Byte) : (joinBytes h l).toNat = 256 * h.toNat + l.toNat := by
  have := l.isLt
  rw [joinBytes, BitVec.toNat_append, ← Nat.shiftLeft_add_eq_or_of_lt this, Nat.shiftLeft_eq]
  omega

theorem highByte_toNat (a : Addr) : (highByte a).toNat = a.toNat / 256 := by
  have := a.isLt
  simp [highByte, BitVec.extractLsb'_toNat, Nat.shiftRight_eq_div_pow]
  omega

theorem lowByte_toNat (a : Addr) : (lowByte a).toNat = a.toNat % 256 := by
  simp [lowByte, BitVec.extractLsb'_toNat]

@[simp] theorem highByte_joinBytes (h l : Byte) : highByte (joinBytes h l) = h := by
  have := l.isLt
  apply BitVec.eq_of_toNat_eq
  rw [highByte_toNat, joinBytes_toNat]
  omega

@[simp] theorem lowByte_joinBytes (h l : Byte) : lowByte (joinBytes h l) = l := by
  have := l.isLt
  apply BitVec.eq_of_toNat_eq
  rw [lowByte_toNat, joinBytes_toNat]
  omega

@[simp] theorem joinBytes_bytes (a : Addr) : joinBytes (highByte a) (lowByte a) = a := by
  apply BitVec.eq_of_toNat_eq
  rw [joinBytes_toNat, highByte_toNat, lowByte_toNat]
  omega

theorem zeroPageAddress_toNat (b : Byte) : (zeroPageAddress b).toNat = b.toNat := by
  simp [zeroPageAddress, joinBytes_toNat]

/-- The address after an address is another address (R4, R38). -/
theorem addr_succ_ne (a : Addr) : a + 1#16 ≠ a := by
  intro h
  have := congrArg BitVec.toNat h
  simp at this
  omega

/-- Odd addresses are those with an odd number (R36). -/
theorem isOdd_eq_decide (a : Addr) : isOdd a = decide (a.toNat % 2 = 1) := by
  rw [isOdd, ← BitVec.testBit_toNat, Nat.testBit_zero]

/-- The register after Ri is another register (R2). -/
theorem nextReg_ne (i : RegNum) : nextReg i ≠ i := by
  revert i
  decide

end Machine

end Sys2Proof
end

