-- ==== Sys2Proof/Laws/Idioms.lean ====
section
/-! SUPPORT. What encoding and performing a sequence of instructions can do. -/

namespace Sys2Proof.Machine

@[simp] theorem encodeAll_nil : encodeAll [] = [] := rfl

@[simp] theorem encodeAll_cons (i : Instr) (rest : List Instr) : encodeAll (i :: rest) = encode i ++ encodeAll rest := rfl

@[simp] theorem execAll_nil (s : State) : execAll [] s = .next s := rfl

/-- Where a sequence answers a next state, its first instruction does, and the rest does from there. -/
theorem execAll_cons_next {i : Instr} {rest : List Instr} {s u : State} :
    execAll (i :: rest) s = .next u ↔ ∃ t, exec i s = .next t ∧ execAll rest t = .next u := by
  simp only [execAll]
  cases exec i s <;> simp

end Sys2Proof.Machine
end

