-- ==== Sys2Proof/Laws/State.lean ====
section
/-! SUPPORT. What each state update does to each field and each accessor: one lemma each, so that no proof unfolds a record
update. -/

namespace Sys2Proof.Machine

/-! ### setReg -/

@[simp] theorem State.setReg_pc (s : State) (i : RegNum) (v : Byte) : (s.setReg i v).pc = s.pc := rfl
@[simp] theorem State.setReg_flags (s : State) (i : RegNum) (v : Byte) : (s.setReg i v).flags = s.flags := rfl
@[simp] theorem State.setReg_halted (s : State) (i : RegNum) (v : Byte) : (s.setReg i v).halted = s.halted := rfl
@[simp] theorem State.setReg_mem (s : State) (i : RegNum) (v : Byte) : (s.setReg i v).mem = s.mem := rfl
@[simp] theorem State.setReg_cfg (s : State) (i : RegNum) (v : Byte) : (s.setReg i v).cfg = s.cfg := rfl
@[simp] theorem State.setReg_memByte (s : State) (i : RegNum) (v : Byte) (d : Addr) : (s.setReg i v).memByte d = s.memByte d := rfl

/-! ### setFlags -/

@[simp] theorem State.setFlags_regs (s : State) (f : Flags) : (s.setFlags f).regs = s.regs := rfl
@[simp] theorem State.setFlags_pc (s : State) (f : Flags) : (s.setFlags f).pc = s.pc := rfl
@[simp] theorem State.setFlags_flags (s : State) (f : Flags) : (s.setFlags f).flags = f := rfl
@[simp] theorem State.setFlags_halted (s : State) (f : Flags) : (s.setFlags f).halted = s.halted := rfl
@[simp] theorem State.setFlags_mem (s : State) (f : Flags) : (s.setFlags f).mem = s.mem := rfl
@[simp] theorem State.setFlags_cfg (s : State) (f : Flags) : (s.setFlags f).cfg = s.cfg := rfl
@[simp] theorem State.setFlags_reg (s : State) (f : Flags) (r : RegNum) : (s.setFlags f).reg r = s.reg r := rfl
@[simp] theorem State.setFlags_sp (s : State) (f : Flags) : (s.setFlags f).sp = s.sp := rfl
@[simp] theorem State.setFlags_pairValue (s : State) (f : Flags) (x y : RegNum) : (s.setFlags f).pairValue x y = s.pairValue x y := rfl
@[simp] theorem State.setFlags_memByte (s : State) (f : Flags) (d : Addr) : (s.setFlags f).memByte d = s.memByte d := rfl

/-! ### setPc -/

@[simp] theorem State.setPc_regs (s : State) (a : Addr) : (s.setPc a).regs = s.regs := rfl
@[simp] theorem State.setPc_pc (s : State) (a : Addr) : (s.setPc a).pc = a := rfl
@[simp] theorem State.setPc_flags (s : State) (a : Addr) : (s.setPc a).flags = s.flags := rfl
@[simp] theorem State.setPc_halted (s : State) (a : Addr) : (s.setPc a).halted = s.halted := rfl
@[simp] theorem State.setPc_mem (s : State) (a : Addr) : (s.setPc a).mem = s.mem := rfl
@[simp] theorem State.setPc_cfg (s : State) (a : Addr) : (s.setPc a).cfg = s.cfg := rfl
@[simp] theorem State.setPc_reg (s : State) (a : Addr) (r : RegNum) : (s.setPc a).reg r = s.reg r := rfl
@[simp] theorem State.setPc_sp (s : State) (a : Addr) : (s.setPc a).sp = s.sp := rfl
@[simp] theorem State.setPc_pairValue (s : State) (a : Addr) (x y : RegNum) : (s.setPc a).pairValue x y = s.pairValue x y := rfl
@[simp] theorem State.setPc_memByte (s : State) (a : Addr) (d : Addr) : (s.setPc a).memByte d = s.memByte d := rfl

/-! ### setHalted -/

@[simp] theorem State.setHalted_regs (s : State) : (s.setHalted).regs = s.regs := rfl
@[simp] theorem State.setHalted_pc (s : State) : (s.setHalted).pc = s.pc := rfl
@[simp] theorem State.setHalted_flags (s : State) : (s.setHalted).flags = s.flags := rfl
@[simp] theorem State.setHalted_halted (s : State) : (s.setHalted).halted = true := rfl
@[simp] theorem State.setHalted_mem (s : State) : (s.setHalted).mem = s.mem := rfl
@[simp] theorem State.setHalted_cfg (s : State) : (s.setHalted).cfg = s.cfg := rfl
@[simp] theorem State.setHalted_reg (s : State) (r : RegNum) : (s.setHalted).reg r = s.reg r := rfl
@[simp] theorem State.setHalted_sp (s : State) : (s.setHalted).sp = s.sp := rfl
@[simp] theorem State.setHalted_pairValue (s : State) (x y : RegNum) : (s.setHalted).pairValue x y = s.pairValue x y := rfl
@[simp] theorem State.setHalted_memByte (s : State) (d : Addr) : (s.setHalted).memByte d = s.memByte d := rfl

/-! ### memWrite -/

@[simp] theorem State.memWrite_regs (s : State) (a : Addr) (v : Byte) : (s.memWrite a v).regs = s.regs := rfl
@[simp] theorem State.memWrite_pc (s : State) (a : Addr) (v : Byte) : (s.memWrite a v).pc = s.pc := rfl
@[simp] theorem State.memWrite_flags (s : State) (a : Addr) (v : Byte) : (s.memWrite a v).flags = s.flags := rfl
@[simp] theorem State.memWrite_halted (s : State) (a : Addr) (v : Byte) : (s.memWrite a v).halted = s.halted := rfl
@[simp] theorem State.memWrite_mem (s : State) (a : Addr) (v : Byte) : (s.memWrite a v).mem = s.mem.write a.toNat v := rfl
@[simp] theorem State.memWrite_cfg (s : State) (a : Addr) (v : Byte) : (s.memWrite a v).cfg = s.cfg := rfl
@[simp] theorem State.memWrite_reg (s : State) (a : Addr) (v : Byte) (r : RegNum) : (s.memWrite a v).reg r = s.reg r := rfl
@[simp] theorem State.memWrite_sp (s : State) (a : Addr) (v : Byte) : (s.memWrite a v).sp = s.sp := rfl
@[simp] theorem State.memWrite_pairValue (s : State) (a : Addr) (v : Byte) (x y : RegNum) : (s.memWrite a v).pairValue x y = s.pairValue x y := rfl

/-! ### advance -/

@[simp] theorem State.advance_regs (s : State) (k : Nat) : (s.advance k).regs = s.regs := rfl
@[simp] theorem State.advance_pc (s : State) (k : Nat) : (s.advance k).pc = s.pc + BitVec.ofNat 16 k := rfl
@[simp] theorem State.advance_flags (s : State) (k : Nat) : (s.advance k).flags = s.flags := rfl
@[simp] theorem State.advance_halted (s : State) (k : Nat) : (s.advance k).halted = s.halted := rfl
@[simp] theorem State.advance_mem (s : State) (k : Nat) : (s.advance k).mem = s.mem := rfl
@[simp] theorem State.advance_cfg (s : State) (k : Nat) : (s.advance k).cfg = s.cfg := rfl
@[simp] theorem State.advance_reg (s : State) (k : Nat) (r : RegNum) : (s.advance k).reg r = s.reg r := rfl
@[simp] theorem State.advance_sp (s : State) (k : Nat) : (s.advance k).sp = s.sp := rfl
@[simp] theorem State.advance_pairValue (s : State) (k : Nat) (x y : RegNum) : (s.advance k).pairValue x y = s.pairValue x y := rfl
@[simp] theorem State.advance_memByte (s : State) (k : Nat) (d : Addr) : (s.advance k).memByte d = s.memByte d := rfl

/-! ### setSp -/

@[simp] theorem State.setSp_pc (s : State) (a : Addr) : (s.setSp a).pc = s.pc := rfl
@[simp] theorem State.setSp_flags (s : State) (a : Addr) : (s.setSp a).flags = s.flags := rfl
@[simp] theorem State.setSp_halted (s : State) (a : Addr) : (s.setSp a).halted = s.halted := rfl
@[simp] theorem State.setSp_mem (s : State) (a : Addr) : (s.setSp a).mem = s.mem := rfl
@[simp] theorem State.setSp_cfg (s : State) (a : Addr) : (s.setSp a).cfg = s.cfg := rfl
@[simp] theorem State.setSp_memByte (s : State) (a : Addr) (d : Addr) : (s.setSp a).memByte d = s.memByte d := rfl

/-! ### Registers -/

theorem State.reg_setReg (s : State) (i r : RegNum) (v : Byte) : (s.setReg i v).reg r = if r = i then v else s.reg r := by
  simp only [State.reg, State.setReg, Vector.getElem_set, BitVec.toNat_inj, eq_comm]

@[simp] theorem State.reg_setReg_same (s : State) (i : RegNum) (v : Byte) : (s.setReg i v).reg i = v := by
  simp [State.reg_setReg]

theorem State.reg_setReg_other (s : State) {i r : RegNum} (v : Byte) (h : r ≠ i) : (s.setReg i v).reg r = s.reg r := by
  simp [State.reg_setReg, h]

/-- Two register files with the same sixteen registers are equal. -/
theorem State.regs_ext {s t : State} (h : ∀ r, s.reg r = t.reg r) : s.regs = t.regs := by
  apply Vector.ext
  intro k hk
  have := h (BitVec.ofNat 4 k)
  simpa [State.reg, Nat.mod_eq_of_lt hk] using this

/-- Two states are equal when every register, every field and the memory agree. -/
theorem State.ext_reg {s t : State} (hr : ∀ r, s.reg r = t.reg r) (hp : s.pc = t.pc) (hf : s.flags = t.flags)
    (hh : s.halted = t.halted) (hm : s.mem = t.mem) (hc : s.cfg = t.cfg) : s = t := by
  have := State.regs_ext hr
  cases s
  cases t
  simp_all

end Sys2Proof.Machine
end

