-- ==== Sys2Proof/Laws/Memory.lean ====
section
/-! SUPPORT. The laws of memory: a read after a write, and the canonical form that every write keeps. -/

namespace Sys2Proof.Machine

@[simp] theorem Memory.read_write_same (m : Memory) (a : Nat) (v : Byte) : (m.write a v).read a = some v := by
  induction m with
  | nil => simp [Memory.write, Memory.read]
  | cons c rest ih =>
    obtain ⟨b, u⟩ := c
    simp only [Memory.write]
    split
    · simp [Memory.read]
    · split
      · simp [Memory.read]
      · next h => simp [Memory.read, h, ih]

theorem Memory.read_write_other (m : Memory) {a d : Nat} (v : Byte) (h : d ≠ a) : (m.write a v).read d = m.read d := by
  induction m with
  | nil => simp [Memory.write, Memory.read, h]
  | cons c rest ih =>
    obtain ⟨b, u⟩ := c
    simp only [Memory.write]
    split
    · simp [Memory.read, h]
    · split
      · next e => subst e; simp [Memory.read, h]
      · simp [Memory.read, ih]

/-- A write keeps the addresses rising from a bound that the written address respects. -/
theorem Memory.risingFrom_write (m : Memory) {lo a : Nat} (v : Byte) (hlo : lo ≤ a) (ha : a < 65536)
    (h : Memory.risingFrom lo m = true) : Memory.risingFrom lo (m.write a v) = true := by
  induction m generalizing lo with
  | nil => simp [Memory.write, Memory.risingFrom, hlo, ha]
  | cons c rest ih =>
    obtain ⟨b, u⟩ := c
    simp only [Memory.risingFrom, Bool.and_eq_true, decide_eq_true_eq] at h
    obtain ⟨⟨hb, hb'⟩, hr⟩ := h
    simp only [Memory.write]
    split
    · next hab => simp [Memory.risingFrom, hlo, ha, hb', hr, show a + 1 ≤ b from hab]
    · split
      · next e => subst e; simp [Memory.risingFrom, hlo, ha, hr]
      · next h1 h2 =>
        simp only [Memory.risingFrom, Bool.and_eq_true, decide_eq_true_eq]
        exact ⟨⟨hb, hb'⟩, ih (by omega) hr⟩

/-- Every write within the address space keeps the canonical form. -/
theorem Memory.wf_write {m : Memory} {a : Nat} (v : Byte) (ha : a < 65536) (h : m.wf = true) : (m.write a v).wf = true :=
  Memory.risingFrom_write m v (Nat.zero_le a) ha h

/-- An address below the bound is not listed. -/
theorem Memory.read_below {m : Memory} {lo d : Nat} (h : Memory.risingFrom lo m = true) (hd : d < lo) : m.read d = none := by
  induction m generalizing lo with
  | nil => rfl
  | cons c rest ih =>
    obtain ⟨b, u⟩ := c
    simp only [Memory.risingFrom, Bool.and_eq_true, decide_eq_true_eq] at h
    have : d ≠ b := by omega
    simp [Memory.read, this, ih h.2 (by omega)]

/-- In canonical form, memories that read alike are the same data. -/
theorem Memory.ext_of_risingFrom {m m' : Memory} {lo : Nat} (h : Memory.risingFrom lo m = true)
    (h' : Memory.risingFrom lo m' = true) (hr : ∀ d, m.read d = m'.read d) : m = m' := by
  induction m generalizing m' lo with
  | nil =>
    cases m' with
    | nil => rfl
    | cons c rest => have := hr c.1; simp [Memory.read] at this
  | cons c rest ih =>
    cases m' with
    | nil => have := hr c.1; simp [Memory.read] at this
    | cons c' rest' =>
      obtain ⟨b, u⟩ := c
      obtain ⟨b', u'⟩ := c'
      simp only [Memory.risingFrom, Bool.and_eq_true, decide_eq_true_eq] at h h'
      have hbb : b = b' := by
        rcases Nat.lt_trichotomy b b' with hlt | he | hlt
        · have := hr b
          simp [Memory.read, Nat.ne_of_lt hlt, Memory.read_below h'.2 (show b < b' + 1 by omega)] at this
        · exact he
        · have := hr b'
          simp [Memory.read, Nat.ne_of_lt hlt, Memory.read_below h.2 (show b' < b + 1 by omega)] at this
      subst hbb
      have hu : u = u' := by have := hr b; simpa [Memory.read] using this
      subst hu
      have : rest = rest' := by
        apply ih h.2 h'.2
        intro d
        by_cases hd : d = b
        · subst hd
          rw [Memory.read_below h.2 (Nat.lt_succ_self _), Memory.read_below h'.2 (Nat.lt_succ_self _)]
        · have := hr d
          simpa [Memory.read, hd] using this
      rw [this]

theorem Memory.ext_of_wf {m m' : Memory} (h : m.wf = true) (h' : m'.wf = true) (hr : ∀ d, m.read d = m'.read d) : m = m' :=
  Memory.ext_of_risingFrom h h' hr

/-! ### The same laws at the level of the state -/

@[simp] theorem State.memByte_memWrite_same (s : State) (a : Addr) (v : Byte) : (s.memWrite a v).memByte a = some v := by
  simp [State.memByte]

theorem State.memByte_memWrite_other (s : State) {a d : Addr} (v : Byte) (h : d ≠ a) :
    (s.memWrite a v).memByte d = s.memByte d := by
  have : d.toNat ≠ a.toNat := fun e => h (BitVec.eq_of_toNat_eq e)
  simp [State.memByte, Memory.read_write_other, this]

theorem State.memByte_memWrite (s : State) (a d : Addr) (v : Byte) :
    (s.memWrite a v).memByte d = if d = a then some v else s.memByte d := by
  by_cases h : d = a
  · subst h; simp
  · simp [h, State.memByte_memWrite_other s v h]

theorem State.memWrite_wf {s : State} (a : Addr) (v : Byte) (h : s.mem.wf = true) : (s.memWrite a v).mem.wf = true :=
  Memory.wf_write v a.isLt h

/-- No memory is listed after reset, so the canonical form holds. -/
theorem State.reset_mem_wf : State.reset.mem.wf = true := rfl

end Sys2Proof.Machine
end

