-- ==== Sys2Proof/Laws/Ops.lean ====
section
/-! SUPPORT. For each shared operation, what it can do, said once. -/

namespace Sys2Proof.Machine

/-! ### The stack pointer -/

theorem State.setSp_reg (s : State) (a : Addr) (r : RegNum) :
    (s.setSp a).reg r = if r = 14#4 then highByte a else if r = 15#4 then lowByte a else s.reg r := by
  simp only [State.setSp, State.reg_setReg]
  by_cases h15 : r = 15#4
  · subst h15; simp
  · rw [if_neg h15, if_neg h15]

@[simp] theorem State.setSp_sp (s : State) (a : Addr) : (s.setSp a).sp = a := by
  simp [State.sp, State.setSp_reg]

/-- Writing a register that is no half of SP leaves SP alone. -/
theorem State.setReg_sp_other (s : State) {i : RegNum} (v : Byte) (h14 : i ≠ 14#4) (h15 : i ≠ 15#4) : (s.setReg i v).sp = s.sp := by
  rw [State.sp, State.reg_setReg_other s v (Ne.symm h14), State.reg_setReg_other s v (Ne.symm h15), ← State.sp]

/-! ### Memory reads -/

theorem State.memRead_ok {s : State} {a : Addr} {v : Byte} : s.memRead a = .ok v ↔ s.memByte a = some v := by
  unfold State.memRead
  split <;> simp_all

theorem State.memRead_error {s : State} {a : Addr} {f : Fault} :
    s.memRead a = .error f ↔ s.memByte a = none ∧ f = .unwrittenRead a := by
  unfold State.memRead
  split
  · simp_all
  · simp_all [eq_comm]

/-! ### Shared meanings -/

theorem State.loadInto_next {s t : State} {i : RegNum} {ea : Addr} :
    s.loadInto i ea = .next t ↔ ∃ v, s.memByte ea = some v ∧ t = (s.setReg i v).advance 2 := by
  unfold State.loadInto
  split
  · next v hv => rw [State.memRead_ok] at hv; simp [hv, eq_comm]
  · next f hf => rw [State.memRead_error] at hf; simp [hf, raise]

theorem State.loadInto_fault {s : State} {i : RegNum} {ea : Addr} {f : Fault} :
    s.loadInto i ea = .fault f ↔ s.memByte ea = none ∧ f = .unwrittenRead ea := by
  unfold State.loadInto
  split
  · next v hv => rw [State.memRead_ok] at hv; simp [hv]
  · next g hg => rw [State.memRead_error] at hg; simp [hg, raise, eq_comm]

theorem State.operandFault_none {s : State} {op arg : Byte} :
    s.operandFault op arg = none ↔ (s.cfg.strictOperand = true → arg = 0#8) := by
  unfold State.operandFault
  split <;> simp_all

theorem State.operandFault_some {s : State} {op arg : Byte} {f : Fault} :
    s.operandFault op arg = some f ↔ s.cfg.strictOperand = true ∧ arg ≠ 0#8 ∧ f = .nonCanonicalOperand s.pc op arg := by
  unfold State.operandFault
  split
  · simp_all only [Bool.and_eq_true, bne_iff_ne, ne_eq, Option.some.injEq, not_false_eq_true, true_and]
    exact eq_comm
  · simp_all

theorem State.popReturn_next {s t : State} :
    s.popReturn = .next t ↔ ∃ hi lo, s.memByte s.sp = some hi ∧ s.memByte (s.sp + 1#16) = some lo ∧
      t = (s.setSp (s.sp + 2#16)).setPc (joinBytes hi lo) := by
  unfold State.popReturn
  split
  · next f hf => rw [State.memRead_error] at hf; simp [hf, raise]
  · next hi hhi =>
    rw [State.memRead_ok] at hhi
    split
    · next f hf => rw [State.memRead_error] at hf; simp [hf, raise]
    · next lo hlo => rw [State.memRead_ok] at hlo; simp [hhi, hlo, eq_comm]

theorem State.popReturn_fault {s : State} {f : Fault} :
    s.popReturn = .fault f ↔ (s.memByte s.sp = none ∧ f = .unwrittenRead s.sp) ∨
      ((s.memByte s.sp).isSome ∧ s.memByte (s.sp + 1#16) = none ∧ f = .unwrittenRead (s.sp + 1#16)) := by
  unfold State.popReturn
  split
  · next g hg => rw [State.memRead_error] at hg; simp [hg, raise, eq_comm]
  · next hi hhi =>
    rw [State.memRead_ok] at hhi
    split
    · next g hg => rw [State.memRead_error] at hg; simp [hhi, hg, raise, eq_comm]
    · next lo hlo => rw [State.memRead_ok] at hlo; simp [hhi, hlo]

/-! ### The pushed return address (R133) -/

@[simp] theorem State.pushReturn_pc (s : State) (ret : Addr) : (s.pushReturn ret).pc = s.pc := rfl
@[simp] theorem State.pushReturn_flags (s : State) (ret : Addr) : (s.pushReturn ret).flags = s.flags := rfl
@[simp] theorem State.pushReturn_halted (s : State) (ret : Addr) : (s.pushReturn ret).halted = s.halted := rfl
@[simp] theorem State.pushReturn_cfg (s : State) (ret : Addr) : (s.pushReturn ret).cfg = s.cfg := rfl

theorem State.pushReturn_reg (s : State) (ret : Addr) (r : RegNum) :
    (s.pushReturn ret).reg r = (s.setSp (s.sp - 2#16)).reg r := rfl

@[simp] theorem State.pushReturn_sp (s : State) (ret : Addr) : (s.pushReturn ret).sp = s.sp - 2#16 := by
  simp [State.pushReturn]

theorem State.pushReturn_memByte (s : State) (ret d : Addr) :
    (s.pushReturn ret).memByte d =
      if d = s.sp - 2#16 + 1#16 then some (lowByte ret) else if d = s.sp - 2#16 then some (highByte ret) else s.memByte d := by
  simp [State.pushReturn, State.memByte_memWrite]

theorem State.pushReturn_wf {s : State} (ret : Addr) (h : s.mem.wf = true) : (s.pushReturn ret).mem.wf = true :=
  State.memWrite_wf _ _ (State.memWrite_wf _ _ h)

/-! ### One iteration of PUSH (R146) -/

@[simp] theorem State.pushReg_pc (s : State) (i : RegNum) : (s.pushReg i).pc = s.pc := rfl
@[simp] theorem State.pushReg_flags (s : State) (i : RegNum) : (s.pushReg i).flags = s.flags := rfl
@[simp] theorem State.pushReg_halted (s : State) (i : RegNum) : (s.pushReg i).halted = s.halted := rfl
@[simp] theorem State.pushReg_cfg (s : State) (i : RegNum) : (s.pushReg i).cfg = s.cfg := rfl

theorem State.pushReg_reg (s : State) (i r : RegNum) : (s.pushReg i).reg r = (s.setSp (s.sp - 1#16)).reg r := rfl

@[simp] theorem State.pushReg_sp (s : State) (i : RegNum) : (s.pushReg i).sp = s.sp - 1#16 := by
  simp [State.pushReg]

theorem State.pushReg_memByte (s : State) (i : RegNum) (d : Addr) :
    (s.pushReg i).memByte d = if d = s.sp - 1#16 then some ((s.setSp (s.sp - 1#16)).reg i) else s.memByte d := by
  simp [State.pushReg, State.memByte_memWrite]

theorem State.pushReg_wf {s : State} (i : RegNum) (h : s.mem.wf = true) : (s.pushReg i).mem.wf = true :=
  State.memWrite_wf _ _ h

/-- What PUSH's loop never changes, and the canonical form that it keeps. -/
theorem State.pushRegs_frame (l : List RegNum) (s : State) :
    (s.pushRegs l).pc = s.pc ∧ (s.pushRegs l).flags = s.flags ∧ (s.pushRegs l).halted = s.halted ∧
      (s.pushRegs l).cfg = s.cfg ∧ (s.mem.wf = true → (s.pushRegs l).mem.wf = true) ∧
      (∀ a, (s.memByte a).isSome → ((s.pushRegs l).memByte a).isSome) := by
  induction l generalizing s with
  | nil => simp [State.pushRegs]
  | cons i rest ih =>
    obtain ⟨h1, h2, h3, h4, h5, h6⟩ := ih (s.pushReg i)
    refine ⟨h1, h2, h3, h4, fun h => h5 (State.pushReg_wf i h), fun a ha => h6 a ?_⟩
    rw [State.pushReg_memByte]
    split <;> simp_all

/-! ### One iteration of POP (R147) -/

theorem State.popReg_ok {s t : State} {i : RegNum} :
    s.popReg i = .ok t ↔ ∃ v, s.memByte s.sp = some v ∧ t = (s.setReg i v).setSp ((s.setReg i v).sp + 1#16) := by
  unfold State.popReg
  split
  · next v hv => rw [State.memRead_ok] at hv; simp [hv, eq_comm]
  · next f hf => rw [State.memRead_error] at hf; simp [hf]

theorem State.popReg_error {s : State} {i : RegNum} {f : Fault} :
    s.popReg i = .error f ↔ s.memByte s.sp = none ∧ f = .unwrittenRead s.sp := by
  unfold State.popReg
  split
  · next v hv => rw [State.memRead_ok] at hv; simp [hv]
  · next g hg => rw [State.memRead_error] at hg; simp [hg, eq_comm]

/-- What POP's loop never changes. -/
theorem State.popRegs_frame {l : List RegNum} {s t : State} (h : s.popRegs l = .ok t) :
    t.pc = s.pc ∧ t.flags = s.flags ∧ t.halted = s.halted ∧ t.cfg = s.cfg ∧ t.mem = s.mem := by
  induction l generalizing s with
  | nil => simp only [State.popRegs, Except.ok.injEq] at h; subst h; simp
  | cons i rest ih =>
    simp only [State.popRegs] at h
    split at h
    · next s1 hs1 =>
      rw [State.popReg_ok] at hs1
      obtain ⟨v, -, rfl⟩ := hs1
      simpa using ih h
    · simp at h

/-- POP's loop stops only on a byte that holds no value. -/
theorem State.popRegs_error {l : List RegNum} {s : State} {f : Fault} (h : s.popRegs l = .error f) :
    ∃ a, s.memByte a = none ∧ f = .unwrittenRead a := by
  induction l generalizing s with
  | nil => simp [State.popRegs] at h
  | cons i rest ih =>
    simp only [State.popRegs] at h
    split at h
    · next s1 hs1 =>
      rw [State.popReg_ok] at hs1
      obtain ⟨v, -, rfl⟩ := hs1
      simpa using ih h
    · next g hg =>
      rw [State.popReg_error] at hg
      simp only [Except.error.injEq] at h
      subst h
      exact ⟨_, hg⟩

/-! ### Division -/

theorem divideBytes_none {d : DivZero} {a b : Byte} : divideBytes d a b = none ↔ b = 0#8 ∧ d = .fault := by
  unfold divideBytes
  split
  · cases d <;> simp_all
  · simp_all

/-! ### Results, jumps, order, placing -/

/-- Everything `writeResult` can do; `addInto` and `subInto` are instances of it. -/
theorem State.writeResult_next {s t : State} {x : RegNum} {r : Byte} {c : Bool} :
    s.writeResult x r c = .next t ↔ t = ((s.setReg x r).setFlags (resultFlags r c)).advance 2 := by
  simp [State.writeResult, eq_comm]

theorem State.addInto_eq (s : State) (x : RegNum) (n : Nat) : s.addInto x n = s.writeResult x (sumByte n) (sumCarry n) := rfl

theorem State.subInto_eq (s : State) (x : RegNum) (b : Byte) (c : Bool) :
    s.subInto x b c = s.writeResult x (diffByte (exactDiff (s.reg x) b c)) (diffBorrow (s.reg x) b c) := rfl

/-- Everything `jumpIf` can do. -/
theorem State.jumpIf_next {s t : State} {cond : Bool} {off : Byte} :
    s.jumpIf cond off = .next t ↔ t = s.setPc (if cond then relativeTarget s.pc off else s.pc + 2#16) := by
  cases cond <;> simp [State.jumpIf, State.advance, eq_comm]

/-- Both orders of POP hold the same registers. -/
theorem mem_popOrderList (o : PopOrder) (l : List RegNum) (r : RegNum) : r ∈ popOrderList o l ↔ r ∈ l := by
  cases o <;> simp [popOrderList]

/-- Placing bytes changes memory alone. -/
theorem State.placeBytes_frame (l : List Byte) (s : State) (a : Addr) :
    s.placeBytes a l = { s with mem := (s.placeBytes a l).mem } := by
  induction l generalizing s a with
  | nil => rfl
  | cons v rest ih => rw [State.placeBytes, ih (s.memWrite a v)]; rfl

end Sys2Proof.Machine
end

