-- ==== Sys2Proof/Laws/PerInstr.lean ====
section
/-! SUPPORT. Per-instruction lemmas, one per constructor: the form of each encoding. -/

/-- The encoding of an instruction begins with its opcode byte, has the length that this byte decides (R52), and its second byte is
its operand byte (R34, R50). -/
def Sys2Proof.Laws.EncodingForm.Statement (i : Sys2Proof.Instr) : Prop :=
  (Sys2Proof.encode i).length = Sys2Proof.instrLength i.opcode ∧
    Sys2Proof.encode i = i.opcode :: i.operandByte :: i.immediateBytes

theorem Sys2Proof.Laws.EncodingForm.nop (u : Sys2Proof.Byte) :
    Sys2Proof.Laws.EncodingForm.Statement (.nop u) := ⟨rfl, rfl⟩

theorem Sys2Proof.Laws.EncodingForm.ldlo (x : Sys2Proof.RegNum) (i : Sys2Proof.Nibble) :
    Sys2Proof.Laws.EncodingForm.Statement (.ldlo x i) := ⟨rfl, rfl⟩

theorem Sys2Proof.Laws.EncodingForm.ldhi (x : Sys2Proof.RegNum) (i : Sys2Proof.Nibble) :
    Sys2Proof.Laws.EncodingForm.Statement (.ldhi x i) := ⟨rfl, rfl⟩

theorem Sys2Proof.Laws.EncodingForm.ldi0 (i : Sys2Proof.Byte) :
    Sys2Proof.Laws.EncodingForm.Statement (.ldi0 i) := ⟨rfl, rfl⟩

theorem Sys2Proof.Laws.EncodingForm.ldi16 (x y : Sys2Proof.RegNum) (h l : Sys2Proof.Byte) :
    Sys2Proof.Laws.EncodingForm.Statement (.ldi16 x y h l) := ⟨rfl, rfl⟩

theorem Sys2Proof.Laws.EncodingForm.mov (x y : Sys2Proof.RegNum) :
    Sys2Proof.Laws.EncodingForm.Statement (.mov x y) := ⟨rfl, rfl⟩

theorem Sys2Proof.Laws.EncodingForm.swap (x y : Sys2Proof.RegNum) :
    Sys2Proof.Laws.EncodingForm.Statement (.swap x y) := ⟨rfl, rfl⟩

theorem Sys2Proof.Laws.EncodingForm.load (x y : Sys2Proof.RegNum) :
    Sys2Proof.Laws.EncodingForm.Statement (.load x y) := ⟨rfl, rfl⟩

theorem Sys2Proof.Laws.EncodingForm.stor (x y : Sys2Proof.RegNum) :
    Sys2Proof.Laws.EncodingForm.Statement (.stor x y) := ⟨rfl, rfl⟩

theorem Sys2Proof.Laws.EncodingForm.loadz (a : Sys2Proof.Byte) :
    Sys2Proof.Laws.EncodingForm.Statement (.loadz a) := ⟨rfl, rfl⟩

theorem Sys2Proof.Laws.EncodingForm.storz (a : Sys2Proof.Byte) :
    Sys2Proof.Laws.EncodingForm.Statement (.storz a) := ⟨rfl, rfl⟩

theorem Sys2Proof.Laws.EncodingForm.add (x y : Sys2Proof.RegNum) :
    Sys2Proof.Laws.EncodingForm.Statement (.add x y) := ⟨rfl, rfl⟩

theorem Sys2Proof.Laws.EncodingForm.adc (x y : Sys2Proof.RegNum) :
    Sys2Proof.Laws.EncodingForm.Statement (.adc x y) := ⟨rfl, rfl⟩

theorem Sys2Proof.Laws.EncodingForm.sub (x y : Sys2Proof.RegNum) :
    Sys2Proof.Laws.EncodingForm.Statement (.sub x y) := ⟨rfl, rfl⟩

theorem Sys2Proof.Laws.EncodingForm.sbc (x y : Sys2Proof.RegNum) :
    Sys2Proof.Laws.EncodingForm.Statement (.sbc x y) := ⟨rfl, rfl⟩

theorem Sys2Proof.Laws.EncodingForm.inc (x : Sys2Proof.RegNum) (u : Sys2Proof.Nibble) :
    Sys2Proof.Laws.EncodingForm.Statement (.inc x u) := ⟨rfl, rfl⟩

theorem Sys2Proof.Laws.EncodingForm.dec (x : Sys2Proof.RegNum) (u : Sys2Proof.Nibble) :
    Sys2Proof.Laws.EncodingForm.Statement (.dec x u) := ⟨rfl, rfl⟩

theorem Sys2Proof.Laws.EncodingForm.cmp (x y : Sys2Proof.RegNum) :
    Sys2Proof.Laws.EncodingForm.Statement (.cmp x y) := ⟨rfl, rfl⟩

theorem Sys2Proof.Laws.EncodingForm.mul (x y : Sys2Proof.RegNum) :
    Sys2Proof.Laws.EncodingForm.Statement (.mul x y) := ⟨rfl, rfl⟩

theorem Sys2Proof.Laws.EncodingForm.div (x y : Sys2Proof.RegNum) :
    Sys2Proof.Laws.EncodingForm.Statement (.div x y) := ⟨rfl, rfl⟩

theorem Sys2Proof.Laws.EncodingForm.and (x y : Sys2Proof.RegNum) :
    Sys2Proof.Laws.EncodingForm.Statement (.and x y) := ⟨rfl, rfl⟩

theorem Sys2Proof.Laws.EncodingForm.or (x y : Sys2Proof.RegNum) :
    Sys2Proof.Laws.EncodingForm.Statement (.or x y) := ⟨rfl, rfl⟩

theorem Sys2Proof.Laws.EncodingForm.xor (x y : Sys2Proof.RegNum) :
    Sys2Proof.Laws.EncodingForm.Statement (.xor x y) := ⟨rfl, rfl⟩

theorem Sys2Proof.Laws.EncodingForm.not (x : Sys2Proof.RegNum) (u : Sys2Proof.Nibble) :
    Sys2Proof.Laws.EncodingForm.Statement (.not x u) := ⟨rfl, rfl⟩

theorem Sys2Proof.Laws.EncodingForm.shl (x : Sys2Proof.RegNum) (u : Sys2Proof.Nibble) :
    Sys2Proof.Laws.EncodingForm.Statement (.shl x u) := ⟨rfl, rfl⟩

theorem Sys2Proof.Laws.EncodingForm.shr (x : Sys2Proof.RegNum) (u : Sys2Proof.Nibble) :
    Sys2Proof.Laws.EncodingForm.Statement (.shr x u) := ⟨rfl, rfl⟩

theorem Sys2Proof.Laws.EncodingForm.test (x y : Sys2Proof.RegNum) :
    Sys2Proof.Laws.EncodingForm.Statement (.test x y) := ⟨rfl, rfl⟩

theorem Sys2Proof.Laws.EncodingForm.jmp (o : Sys2Proof.Byte) :
    Sys2Proof.Laws.EncodingForm.Statement (.jmp o) := ⟨rfl, rfl⟩

theorem Sys2Proof.Laws.EncodingForm.jmpl (x y : Sys2Proof.RegNum) :
    Sys2Proof.Laws.EncodingForm.Statement (.jmpl x y) := ⟨rfl, rfl⟩

theorem Sys2Proof.Laws.EncodingForm.jz (o : Sys2Proof.Byte) :
    Sys2Proof.Laws.EncodingForm.Statement (.jz o) := ⟨rfl, rfl⟩

theorem Sys2Proof.Laws.EncodingForm.jnz (o : Sys2Proof.Byte) :
    Sys2Proof.Laws.EncodingForm.Statement (.jnz o) := ⟨rfl, rfl⟩

theorem Sys2Proof.Laws.EncodingForm.jc (o : Sys2Proof.Byte) :
    Sys2Proof.Laws.EncodingForm.Statement (.jc o) := ⟨rfl, rfl⟩

theorem Sys2Proof.Laws.EncodingForm.jnc (o : Sys2Proof.Byte) :
    Sys2Proof.Laws.EncodingForm.Statement (.jnc o) := ⟨rfl, rfl⟩

theorem Sys2Proof.Laws.EncodingForm.jn (o : Sys2Proof.Byte) :
    Sys2Proof.Laws.EncodingForm.Statement (.jn o) := ⟨rfl, rfl⟩

theorem Sys2Proof.Laws.EncodingForm.call (o : Sys2Proof.Byte) :
    Sys2Proof.Laws.EncodingForm.Statement (.call o) := ⟨rfl, rfl⟩

theorem Sys2Proof.Laws.EncodingForm.calll (x y : Sys2Proof.RegNum) :
    Sys2Proof.Laws.EncodingForm.Statement (.calll x y) := ⟨rfl, rfl⟩

theorem Sys2Proof.Laws.EncodingForm.ret (u : Sys2Proof.Byte) :
    Sys2Proof.Laws.EncodingForm.Statement (.ret u) := ⟨rfl, rfl⟩

theorem Sys2Proof.Laws.EncodingForm.push (x y : Sys2Proof.RegNum) :
    Sys2Proof.Laws.EncodingForm.Statement (.push x y) := ⟨rfl, rfl⟩

theorem Sys2Proof.Laws.EncodingForm.pop (x y : Sys2Proof.RegNum) :
    Sys2Proof.Laws.EncodingForm.Statement (.pop x y) := ⟨rfl, rfl⟩

theorem Sys2Proof.Laws.EncodingForm.hlt (u : Sys2Proof.Byte) :
    Sys2Proof.Laws.EncodingForm.Statement (.hlt u) := ⟨rfl, rfl⟩
end

