-- ==== Sys2Proof/Laws/Step.lean ====
section
/-! SUPPORT. What the fetch and one step can do, said once. -/

namespace Sys2Proof.Machine

/-- LDI16's immediate: the two bytes after its operand byte; nothing for any other opcode. -/
theorem State.fetchImmediate_ok {s : State} {op hi lo : Byte} :
    s.fetchImmediate op = .ok (hi, lo) ↔
      (op = ldi16Opcode ∧ s.memByte (s.pc + 2#16) = some hi ∧ s.memByte (s.pc + 3#16) = some lo) ∨
      (op ≠ ldi16Opcode ∧ hi = 0#8 ∧ lo = 0#8) := by
  unfold State.fetchImmediate
  split
  · next hop =>
    split
    · next f hf => rw [State.memRead_error] at hf; simp [hop, hf]
    · next h hh =>
      rw [State.memRead_ok] at hh
      split
      · next f hf => rw [State.memRead_error] at hf; simp [hop, hf]
      · next l hl => rw [State.memRead_ok] at hl; simp [hop, hh, hl]
  · next hop => simp only [hop, false_and, false_or, not_false_eq_true, ne_eq, true_and, Except.ok.injEq, Prod.mk.injEq,
      eq_comm (a := (0#8))]

/-- A fetch that answers an instruction: `pc` is even, the bytes hold values, and they decode to it. -/
theorem State.fetch_ok {s : State} {i : Instr} :
    s.fetch = .ok i ↔ isOdd s.pc = false ∧ ∃ op arg hi lo, s.memByte s.pc = some op ∧ s.memByte (s.pc + 1#16) = some arg ∧
      s.fetchImmediate op = .ok (hi, lo) ∧ decodeFields op arg hi lo = some i := by
  unfold State.fetch
  split
  · next hodd => simp [hodd]
  · next heven =>
    have heven : isOdd s.pc = false := by simpa using heven
    split
    · next f hf => rw [State.memRead_error] at hf; simp [hf]
    · next op hop =>
      rw [State.memRead_ok] at hop
      split
      · next f hf => rw [State.memRead_error] at hf; simp [hf]
      · next arg harg =>
        rw [State.memRead_ok] at harg
        unfold State.decodeFetched
        split
        · next f hf => simp [hop, hf]
        · next hi lo himm =>
          split
          · next j hj => simp [heven, hop, harg, himm, hj]
          · next hj => simp [hop, harg, himm, hj]

/-- A step that answers a next state: the machine was halted and nothing changed, or the fetched instruction ran. -/
theorem step_next {s t : State} :
    step s = .next t ↔ (s.halted = true ∧ t = s) ∨ (s.halted = false ∧ ∃ i, s.fetch = .ok i ∧ exec i s = .next t) := by
  unfold step
  split
  · next h => simp [h, eq_comm]
  · next h =>
    have h : s.halted = false := by simpa using h
    split
    · next f hf => simp [h, hf, raise]
    · next i hi => simp [h, hi]

/-- A running machine whose fetch answers an instruction performs it. -/
theorem step_of_fetch {s : State} {i : Instr} (h : s.halted = false) (hf : s.fetch = .ok i) : step s = exec i s := by
  simp [step, h, hf]

end Sys2Proof.Machine
end

