-- ==== Sys2Proof/Machine/Assembly.lean ====
section
/-! DEFINITION. The assembler's text for an instruction, as the Format lines give it (spec/30_encoding.md R61, conflict C5). No step
depends on it. -/

namespace Sys2Proof.Machine

/-- A register's name, `R0` to `R15` (R61). -/
def regText (r : RegNum) : String := "R" ++ toString r.toNat

/-- One hexadecimal digit, in upper case. -/
def digitText (d : Nibble) : String := String.singleton (Nat.digitChar d.toNat).toUpper

/-- Two hexadecimal digits. -/
def byteText (b : Byte) : String := digitText (highNibble b) ++ digitText (lowNibble b)

/-- `m Rx, Ry`: the register written first is `xn`, the second `yn` (R61). -/
def pairText (m : String) (x y : RegNum) : String := m ++ " " ++ regText x ++ ", " ++ regText y

/-- `m #$hh`: an immediate or a zero-page address (R61). -/
def immediateText (m : String) (b : Byte) : String := m ++ " #$" ++ byteText b

/-- `m $hh`: a relative jump or call with its raw offset byte (95_test_vectors.md section 1). -/
def offsetText (m : String) (b : Byte) : String := m ++ " $" ++ byteText b

end Sys2Proof.Machine

namespace Sys2Proof

open Machine

/-- The mnemonic of an instruction, as spec/opcode_table.json spells it (R56, R61). -/
def Instr.mnemonic : Instr → String
  | .nop _ => "NOP"
  | .ldlo _ _ => "LDLO"
  | .ldhi _ _ => "LDHI"
  | .ldi0 _ => "LDI0"
  | .ldi16 _ _ _ _ => "LDI16"
  | .mov _ _ => "MOV"
  | .swap _ _ => "SWAP"
  | .load _ _ => "LOAD"
  | .stor _ _ => "STOR"
  | .loadz _ => "LOADZ"
  | .storz _ => "STORZ"
  | .add _ _ => "ADD"
  | .adc _ _ => "ADC"
  | .sub _ _ => "SUB"
  | .sbc _ _ => "SBC"
  | .inc _ _ => "INC"
  | .dec _ _ => "DEC"
  | .cmp _ _ => "CMP"
  | .mul _ _ => "MUL"
  | .div _ _ => "DIV"
  | .and _ _ => "AND"
  | .or _ _ => "OR"
  | .xor _ _ => "XOR"
  | .not _ _ => "NOT"
  | .shl _ _ => "SHL"
  | .shr _ _ => "SHR"
  | .test _ _ => "TEST"
  | .jmp _ => "JMP"
  | .jmpl _ _ => "JMPL"
  | .jz _ => "JZ"
  | .jnz _ => "JNZ"
  | .jc _ => "JC"
  | .jnc _ => "JNC"
  | .jn _ => "JN"
  | .call _ => "CALL"
  | .calll _ _ => "CALLL"
  | .ret _ => "RET"
  | .push _ _ => "PUSH"
  | .pop _ _ => "POP"
  | .hlt _ => "HLT"

/-- An instruction in the form of its Format line (R61). LDI16's immediate is written as the spec's own listings write it (log 30). -/
def Instr.asm (i : Instr) : String :=
  match i with
  | .nop _ => i.mnemonic
  | .ldlo x n => i.mnemonic ++ " " ++ regText x ++ ", #$" ++ digitText n
  | .ldhi x n => i.mnemonic ++ " " ++ regText x ++ ", #$" ++ digitText n
  | .ldi0 b => immediateText i.mnemonic b
  | .ldi16 x y h l => pairText i.mnemonic x y ++ ", #$" ++ byteText h ++ byteText l
  | .mov x y => pairText i.mnemonic x y
  | .swap x y => pairText i.mnemonic x y
  | .load x y => pairText i.mnemonic x y
  | .stor x y => pairText i.mnemonic x y
  | .loadz b => immediateText i.mnemonic b
  | .storz b => immediateText i.mnemonic b
  | .add x y => pairText i.mnemonic x y
  | .adc x y => pairText i.mnemonic x y
  | .sub x y => pairText i.mnemonic x y
  | .sbc x y => pairText i.mnemonic x y
  | .inc x _ => i.mnemonic ++ " " ++ regText x
  | .dec x _ => i.mnemonic ++ " " ++ regText x
  | .cmp x y => pairText i.mnemonic x y
  | .mul x y => pairText i.mnemonic x y
  | .div x y => pairText i.mnemonic x y
  | .and x y => pairText i.mnemonic x y
  | .or x y => pairText i.mnemonic x y
  | .xor x y => pairText i.mnemonic x y
  | .not x _ => i.mnemonic ++ " " ++ regText x
  | .shl x _ => i.mnemonic ++ " " ++ regText x
  | .shr x _ => i.mnemonic ++ " " ++ regText x
  | .test x y => pairText i.mnemonic x y
  | .jmp b => offsetText i.mnemonic b
  | .jmpl x y => pairText i.mnemonic x y
  | .jz b => offsetText i.mnemonic b
  | .jnz b => offsetText i.mnemonic b
  | .jc b => offsetText i.mnemonic b
  | .jnc b => offsetText i.mnemonic b
  | .jn b => offsetText i.mnemonic b
  | .call b => offsetText i.mnemonic b
  | .calll x y => pairText i.mnemonic x y
  | .ret _ => i.mnemonic
  | .push x y => pairText i.mnemonic x y
  | .pop x y => pairText i.mnemonic x y
  | .hlt _ => i.mnemonic

end Sys2Proof
end

