-- ==== Sys2Proof/Tests/Slice0.lean ====
section
/-! SUPPORT. The model's own tests. A test named after a vector takes its expected result from that row of
spec/95_test_vectors.md; a `test_decode_` word is written out bit by bit from the Encoding line quoted above it; a `witness_`
theorem shows a state and operands that meet the hypotheses of the obligation it is named after. -/

namespace Sys2Proof.Tests

open Sys2Proof Sys2Proof.Machine

/-! ### Helpers -/

/-- The state with the listed registers set. -/
def withRegs (s : State) (l : List (RegNum × Byte)) : State := l.foldl (fun t c => t.setReg c.1 c.2) s

/-- The state with the listed bytes of memory stored. -/
def withMem (s : State) (l : List (Addr × Byte)) : State := l.foldl (fun t c => t.memWrite c.1 c.2) s

/-- The machine at `pc`, the instruction's bytes there, with the listed registers, flags and memory. -/
def cpu (pc : Addr) (bytes : List Byte) (regs : List (RegNum × Byte)) (f : Flags) (mem : List (Addr × Byte)) : State :=
  ((withMem (withRegs State.reset regs) mem).setFlags f).setPc pc |>.placeBytes pc bytes

/-- The state under another configuration. -/
def withCfg (s : State) (c : Config) : State := { s with cfg := c }

/-- One step changes the listed registers and bytes, gives these flags, this `pc` and this latch, and changes nothing else. -/
def becomes (s : State) (regs : List (RegNum × Byte)) (mem : List (Addr × Byte)) (f : Flags) (pc : Addr) (h : Bool) : Bool :=
  match step s with
  | .next t => decide (t = { (((withMem (withRegs s regs) mem).setFlags f).setPc pc) with halted := h })
  | _ => false

/-- The fault that an answer ends in. -/
def faultOf (r : StepResult) : Option Fault :=
  match r with
  | .fault f => some f
  | _ => none

/-- The answer is a next state. -/
def answers (r : StepResult) : Bool :=
  match r with
  | .next _ => true
  | _ => false

/-- The next state of an answer, `d` if there is none. -/
def nextOr (d : State) (r : StepResult) : State :=
  match r with
  | .next t => t
  | _ => d

theorem eq_next_of_answers {r : StepResult} (d : State) (h : answers r = true) : r = .next (nextOr d r) := by
  cases r <;> simp_all [answers, nextOr]

/-- No flag set. -/
def clear : Flags := ⟨false, false, false⟩

/-- A running machine at `$0100` with registers and flags 0, so SP = 0, and bytes at `$0000` to `$0002`. -/
def plain : State := cpu 0x0100 [0x00, 0x00] [] clear [(0, 0x11), (1, 0x22), (2, 0x33)]

/-- `plain` with STRICT_OPERAND set. -/
def strict : State := withCfg plain ⟨.ascending, .documented, true⟩

/-! ### Form checks -/

/-- A non-zero low nibble on INC is not canonical (R58). -/
theorem test_canonical_refuses_inc : (Instr.inc 3 3).canonical = false ∧ (Instr.inc 3 0).canonical = true := by decide

/-- A non-zero operand byte on NOP, RET, HLT is not canonical (R59). -/
theorem test_canonical_refuses_operand_byte :
    (Instr.nop 1).canonical = false ∧ (Instr.ret 1).canonical = false ∧ (Instr.hlt 1).canonical = false := by decide

/-- A non-zero low nibble on DEC, NOT, SHL, SHR is not canonical (R58). -/
theorem test_canonical_refuses_unary :
    (Instr.dec 0 1).canonical = false ∧ (Instr.not 0 8).canonical = false ∧ (Instr.shl 0 4).canonical = false ∧
      (Instr.shr 0 2).canonical = false := by decide

/-- An odd offset is refused (R55). -/
theorem test_offset_even_refuses_odd :
    (Instr.jmp 3).offsetEven = false ∧ (Instr.call 0xFF).offsetEven = false ∧ (Instr.jz 1).offsetEven = false ∧
      (Instr.jmp 0xFE).offsetEven = true := by decide

/-- A well-formed instruction is canonical and has an even offset (R183). -/
theorem test_well_formed :
    (Instr.jmp 3).wellFormed = false ∧ (Instr.hlt 7).wellFormed = false ∧ (Instr.jmp 4).wellFormed = true := by decide

/-! ### Decoding -/

/-- NOP, `$00 [0000 0000]`. -/
theorem test_decode_nop :
    decode [0b00000000, 0b00000000, 0x77] = .ok (.nop 0, [0x77]) := by decide

/-- LDLO, `$10 [xxxx iiii]`. -/
theorem test_decode_ldlo :
    decode [0b00010000, 0b00111110, 0x77] = .ok (.ldlo 3 14, [0x77]) := by decide

/-- LDHI, `$11 [xxxx iiii]`. -/
theorem test_decode_ldhi :
    decode [0b00010001, 0b00111110, 0x77] = .ok (.ldhi 3 14, [0x77]) := by decide

/-- LDI0, `$12 [iiii iiii]`. -/
theorem test_decode_ldi0 :
    decode [0b00010010, 0b10110110, 0x77] = .ok (.ldi0 0xB6, [0x77]) := by decide

/-- LDI16, `$13 [xxxx yyyy]`. -/
theorem test_decode_ldi16 :
    decode [0b00010011, 0b00111110, 0b10100101, 0b01011010, 0x77] = .ok (.ldi16 3 14 0xA5 0x5A, [0x77]) := by decide

/-- MOV, `$14 [xxxx yyyy]`. -/
theorem test_decode_mov :
    decode [0b00010100, 0b00111110, 0x77] = .ok (.mov 3 14, [0x77]) := by decide

/-- SWAP, `$15 [xxxx yyyy]`. -/
theorem test_decode_swap :
    decode [0b00010101, 0b00111110, 0x77] = .ok (.swap 3 14, [0x77]) := by decide

/-- LOAD, `$20 [xxxx yyyy]`. -/
theorem test_decode_load :
    decode [0b00100000, 0b00111110, 0x77] = .ok (.load 3 14, [0x77]) := by decide

/-- STOR, `$21 [xxxx yyyy]`. -/
theorem test_decode_stor :
    decode [0b00100001, 0b00111110, 0x77] = .ok (.stor 3 14, [0x77]) := by decide

/-- LOADZ, `$22 [aaaa aaaa]`. -/
theorem test_decode_loadz :
    decode [0b00100010, 0b10110110, 0x77] = .ok (.loadz 0xB6, [0x77]) := by decide

/-- STORZ, `$23 [aaaa aaaa]`. -/
theorem test_decode_storz :
    decode [0b00100011, 0b10110110, 0x77] = .ok (.storz 0xB6, [0x77]) := by decide

/-- ADD, `$30 [xxxx yyyy]`. -/
theorem test_decode_add :
    decode [0b00110000, 0b00111110, 0x77] = .ok (.add 3 14, [0x77]) := by decide

/-- ADC, `$31 [xxxx yyyy]`. -/
theorem test_decode_adc :
    decode [0b00110001, 0b00111110, 0x77] = .ok (.adc 3 14, [0x77]) := by decide

/-- SUB, `$32 [xxxx yyyy]`. -/
theorem test_decode_sub :
    decode [0b00110010, 0b00111110, 0x77] = .ok (.sub 3 14, [0x77]) := by decide

/-- SBC, `$33 [xxxx yyyy]`. -/
theorem test_decode_sbc :
    decode [0b00110011, 0b00111110, 0x77] = .ok (.sbc 3 14, [0x77]) := by decide

/-- INC, `$34 [xxxx 0000]`. -/
theorem test_decode_inc :
    decode [0b00110100, 0b00111110, 0x77] = .ok (.inc 3 14, [0x77]) := by decide

/-- DEC, `$35 [xxxx 0000]`. -/
theorem test_decode_dec :
    decode [0b00110101, 0b00111110, 0x77] = .ok (.dec 3 14, [0x77]) := by decide

/-- CMP, `$36 [xxxx yyyy]`. -/
theorem test_decode_cmp :
    decode [0b00110110, 0b00111110, 0x77] = .ok (.cmp 3 14, [0x77]) := by decide

/-- MUL, `$37 [xxxx yyyy]`. -/
theorem test_decode_mul :
    decode [0b00110111, 0b00111110, 0x77] = .ok (.mul 3 14, [0x77]) := by decide

/-- DIV, `$38 [xxxx yyyy]`. -/
theorem test_decode_div :
    decode [0b00111000, 0b00111110, 0x77] = .ok (.div 3 14, [0x77]) := by decide

/-- AND, `$40 [xxxx yyyy]`. -/
theorem test_decode_and :
    decode [0b01000000, 0b00111110, 0x77] = .ok (.and 3 14, [0x77]) := by decide

/-- OR, `$41 [xxxx yyyy]`. -/
theorem test_decode_or :
    decode [0b01000001, 0b00111110, 0x77] = .ok (.or 3 14, [0x77]) := by decide

/-- XOR, `$42 [xxxx yyyy]`. -/
theorem test_decode_xor :
    decode [0b01000010, 0b00111110, 0x77] = .ok (.xor 3 14, [0x77]) := by decide

/-- NOT, `$43 [xxxx 0000]`. -/
theorem test_decode_not :
    decode [0b01000011, 0b00111110, 0x77] = .ok (.not 3 14, [0x77]) := by decide

/-- SHL, `$44 [xxxx 0000]`. -/
theorem test_decode_shl :
    decode [0b01000100, 0b00111110, 0x77] = .ok (.shl 3 14, [0x77]) := by decide

/-- SHR, `$45 [xxxx 0000]`. -/
theorem test_decode_shr :
    decode [0b01000101, 0b00111110, 0x77] = .ok (.shr 3 14, [0x77]) := by decide

/-- TEST, `$46 [xxxx yyyy]`. -/
theorem test_decode_test :
    decode [0b01000110, 0b00111110, 0x77] = .ok (.test 3 14, [0x77]) := by decide

/-- JMP, `$50 [oooo oooo]`. -/
theorem test_decode_jmp :
    decode [0b01010000, 0b10110110, 0x77] = .ok (.jmp 0xB6, [0x77]) := by decide

/-- JMPL, `$51 [xxxx yyyy]`. -/
theorem test_decode_jmpl :
    decode [0b01010001, 0b00111110, 0x77] = .ok (.jmpl 3 14, [0x77]) := by decide

/-- JZ, `$52 [oooo oooo]`. -/
theorem test_decode_jz :
    decode [0b01010010, 0b10110110, 0x77] = .ok (.jz 0xB6, [0x77]) := by decide

/-- JNZ, `$53 [oooo oooo]`. -/
theorem test_decode_jnz :
    decode [0b01010011, 0b10110110, 0x77] = .ok (.jnz 0xB6, [0x77]) := by decide

/-- JC, `$54 [oooo oooo]`. -/
theorem test_decode_jc :
    decode [0b01010100, 0b10110110, 0x77] = .ok (.jc 0xB6, [0x77]) := by decide

/-- JNC, `$55 [oooo oooo]`. -/
theorem test_decode_jnc :
    decode [0b01010101, 0b10110110, 0x77] = .ok (.jnc 0xB6, [0x77]) := by decide

/-- JN, `$56 [oooo oooo]`. -/
theorem test_decode_jn :
    decode [0b01010110, 0b10110110, 0x77] = .ok (.jn 0xB6, [0x77]) := by decide

/-- CALL, `$57 [oooo oooo]`. -/
theorem test_decode_call :
    decode [0b01010111, 0b10110110, 0x77] = .ok (.call 0xB6, [0x77]) := by decide

/-- CALLL, `$58 [xxxx yyyy]`. -/
theorem test_decode_calll :
    decode [0b01011000, 0b00111110, 0x77] = .ok (.calll 3 14, [0x77]) := by decide

/-- RET, `$59 [0000 0000]`. -/
theorem test_decode_ret :
    decode [0b01011001, 0b00000000, 0x77] = .ok (.ret 0, [0x77]) := by decide

/-- PUSH, `$60 [xxxx yyyy]`. -/
theorem test_decode_push :
    decode [0b01100000, 0b00111110, 0x77] = .ok (.push 3 14, [0x77]) := by decide

/-- POP, `$61 [xxxx yyyy]`. -/
theorem test_decode_pop :
    decode [0b01100001, 0b00111110, 0x77] = .ok (.pop 3 14, [0x77]) := by decide

/-- HLT, `$FF [0000 0000]`. -/
theorem test_decode_hlt :
    decode [0b11111111, 0b00000000, 0x77] = .ok (.hlt 0, [0x77]) := by decide

/-- Too few bytes are refused by name, an undefined opcode byte by its own name (R57). -/
theorem test_decode_refusals :
    decode [] = .error .truncated ∧ decode [0x30] = .error .truncated ∧ decode [0x13, 0x01, 0xAA] = .error .truncated ∧
      decode [0x24, 0x00] = .error (.illegalOpcode 0x24) := by decide

/-- The opcode table's words: the first word is bits 15:0, LDI16's second word bits 31:16. -/
theorem test_table_words :
    decodeTableWord 16 0x3012 = some (.add 1 2) ∧ decodeTableWord 32 0xABCD1352 = some (.ldi16 5 2 0xAB 0xCD) ∧
      decodeTableWord 16 0xFF00 = some (.hlt 0) ∧ decodeTableWord 16 0x6213 = none := by decide

/-- The text of instructions, as the listings of 95_test_vectors.md write them. -/
theorem test_asm :
    (Instr.ldlo 3 0xA).asm = "LDLO R3, #$A" ∧ (Instr.ldi16 14 15 0x7F 0x00).asm = "LDI16 R14, R15, #$7F00" ∧
      (Instr.loadz 0x40).asm = "LOADZ #$40" ∧ (Instr.jmp 0x0C).asm = "JMP $0C" ∧ (Instr.inc 3 0).asm = "INC R3" := by decide

/-! ### Reset -/

/-- The first step after reset runs the instruction that was loaded (R28, R71). -/
theorem test_reset_then_run : becomes (State.reset.withFetchWord 16 0x103A) [(3, 0x0A)] [] clear 0x0002 false = true := by decide

/-- FLT-13 at the reset `pc`: nothing is loaded. -/
theorem test_reset_with_nothing_loaded : faultOf (step State.reset) = some (.unwrittenRead 0) := by decide

/-! ### One step, from the vectors -/

/-- LDLO-1: LDLO R3, #$A -/
theorem test_ldlo_1 :
    becomes (cpu 0x0100 [0x10, 0x3A] [(3, 0xF7)] ⟨false, false, false⟩ [])
      [(3, 0x0A)] [] ⟨false, false, false⟩ 0x0102 false = true := by decide

/-- LDLO-2: LDLO R0, #$0 -/
theorem test_ldlo_2 :
    becomes (cpu 0x0100 [0x10, 0x00] [(0, 0xFF)] ⟨false, false, true⟩ [])
      [(0, 0x00)] [] ⟨false, false, true⟩ 0x0102 false = true := by decide

/-- LDHI-1: LDHI R3, #$C -/
theorem test_ldhi_1 :
    becomes (cpu 0x0100 [0x11, 0x3C] [(3, 0x0A)] ⟨false, false, false⟩ [])
      [(3, 0xCA)] [] ⟨false, false, false⟩ 0x0102 false = true := by decide

/-- LDHI-2: LDHI R3, #$0 -/
theorem test_ldhi_2 :
    becomes (cpu 0x0100 [0x11, 0x30] [(3, 0xFF)] ⟨true, true, true⟩ [])
      [(3, 0x0F)] [] ⟨true, true, true⟩ 0x0102 false = true := by decide

/-- LDI0-1: LDI0 #$80 -/
theorem test_ldi0_1 :
    becomes (cpu 0x0100 [0x12, 0x80] [] ⟨false, true, false⟩ [])
      [(0, 0x80)] [] ⟨false, true, false⟩ 0x0102 false = true := by decide

/-- LDI0-2: LDI0 #$00 -/
theorem test_ldi0_2 :
    becomes (cpu 0x0100 [0x12, 0x00] [(0, 0x55)] ⟨false, false, false⟩ [])
      [(0, 0x00)] [] ⟨false, false, false⟩ 0x0102 false = true := by decide

/-- LDI16-3: LDI16 R3, R3, #$1234 -/
theorem test_ldi16_3 :
    becomes (cpu 0x0100 [0x13, 0x33, 0x12, 0x34] [] ⟨false, false, false⟩ [])
      [(3, 0x34)] [] ⟨false, false, false⟩ 0x0104 false = true := by decide

/-- LDI16-4: LDI16 R0, R1, #$AABB -/
theorem test_ldi16_4 :
    becomes (cpu 0xFFFE [0x13, 0x01, 0xAA, 0xBB] [] ⟨false, false, false⟩ [])
      [(0, 0xAA), (1, 0xBB)] [] ⟨false, false, false⟩ 0x0002 false = true := by decide

/-- MOV-1: MOV R2, R1 -/
theorem test_mov_1 :
    becomes (cpu 0x0100 [0x14, 0x21] [(1, 0x5C), (2, 0x00)] ⟨false, false, false⟩ [])
      [(2, 0x5C)] [] ⟨false, false, false⟩ 0x0102 false = true := by decide

/-- MOV-3: MOV R0, R15 -/
theorem test_mov_3 :
    becomes (cpu 0x0100 [0x14, 0x0F] [(0, 0x12), (15, 0x00)] ⟨false, false, false⟩ [])
      [(0, 0x00)] [] ⟨false, false, false⟩ 0x0102 false = true := by decide

/-- SWAP-1: SWAP R1, R2 -/
theorem test_swap_1 :
    becomes (cpu 0x0100 [0x15, 0x12] [(1, 0x11), (2, 0x22)] ⟨false, false, false⟩ [])
      [(1, 0x22), (2, 0x11)] [] ⟨false, false, false⟩ 0x0102 false = true := by decide

/-- SWAP-2: SWAP R6, R6 -/
theorem test_swap_2 :
    becomes (cpu 0x0100 [0x15, 0x66] [(6, 0x42)] ⟨false, false, false⟩ [])
      [] [] ⟨false, false, false⟩ 0x0102 false = true := by decide

/-- LOAD-2: LOAD R1, R15 -/
theorem test_load_2 :
    becomes (cpu 0x0100 [0x20, 0x1F] [(0, 0x50), (15, 0x20)] ⟨false, false, false⟩ [(0x2050, 0x99)])
      [(1, 0x99)] [] ⟨false, false, false⟩ 0x0102 false = true := by decide

/-- LOAD-3: LOAD R2, R2 -/
theorem test_load_3 :
    becomes (cpu 0x0100 [0x20, 0x22] [(2, 0x12), (3, 0x34)] ⟨false, false, false⟩ [(0x1234, 0xAB)])
      [(2, 0xAB)] [] ⟨false, false, false⟩ 0x0102 false = true := by decide

/-- STOR-2: STOR R2, R2 -/
theorem test_stor_2 :
    becomes (cpu 0x0100 [0x21, 0x22] [(2, 0x12), (3, 0x34)] ⟨false, false, false⟩ [])
      [] [(0x1234, 0x12)] ⟨false, false, false⟩ 0x0102 false = true := by decide

/-- STOR-3: STOR R5, R15 -/
theorem test_stor_3 :
    becomes (cpu 0x0100 [0x21, 0x5F] [(0, 0x50), (5, 0xEE), (15, 0x20)] ⟨false, false, false⟩ [])
      [] [(0x2050, 0xEE)] ⟨false, false, false⟩ 0x0102 false = true := by decide

/-- LOADZ-1: LOADZ #$40 -/
theorem test_loadz_1 :
    becomes (cpu 0x0100 [0x22, 0x40] [] ⟨false, false, false⟩ [(0x0040, 0x07)])
      [(0, 0x07)] [] ⟨false, false, false⟩ 0x0102 false = true := by decide

/-- LOADZ-2: LOADZ #$FF -/
theorem test_loadz_2 :
    becomes (cpu 0x0100 [0x22, 0xFF] [] ⟨false, false, false⟩ [(0x00FF, 0x80)])
      [(0, 0x80)] [] ⟨false, false, false⟩ 0x0102 false = true := by decide

/-- STORZ-1: STORZ #$40 -/
theorem test_storz_1 :
    becomes (cpu 0x0100 [0x23, 0x40] [(0, 0x99)] ⟨false, false, false⟩ [])
      [] [(0x0040, 0x99)] ⟨false, false, false⟩ 0x0102 false = true := by decide

/-- STORZ-2: STORZ #$FF -/
theorem test_storz_2 :
    becomes (cpu 0x0100 [0x23, 0xFF] [(0, 0x00)] ⟨true, false, true⟩ [])
      [] [(0x00FF, 0x00)] ⟨true, false, true⟩ 0x0102 false = true := by decide

/-- ADD-2: ADD R1, R2 -/
theorem test_add_2 :
    becomes (cpu 0x0100 [0x30, 0x12] [(1, 0xFF), (2, 0x01)] ⟨false, false, false⟩ [])
      [(1, 0x00)] [] ⟨true, true, false⟩ 0x0102 false = true := by decide

/-- ADD-7: ADD R1, R2 -/
theorem test_add_7 :
    becomes (cpu 0x0100 [0x30, 0x12] [(1, 0x01), (2, 0x01)] ⟨false, true, false⟩ [])
      [(1, 0x02)] [] ⟨false, false, false⟩ 0x0102 false = true := by decide

/-- ADC-2: ADC R1, R3 -/
theorem test_adc_2 :
    becomes (cpu 0x0100 [0x31, 0x13] [(1, 0xFF), (3, 0xFF)] ⟨false, true, false⟩ [])
      [] [] ⟨false, true, true⟩ 0x0102 false = true := by decide

/-- ADC-3: ADC R1, R3 -/
theorem test_adc_3 :
    becomes (cpu 0x0100 [0x31, 0x13] [(1, 0xFF), (3, 0x00)] ⟨false, true, false⟩ [])
      [(1, 0x00)] [] ⟨true, true, false⟩ 0x0102 false = true := by decide

/-- SUB-1: SUB R1, R2 -/
theorem test_sub_1 :
    becomes (cpu 0x0100 [0x32, 0x12] [(1, 0x10), (2, 0x20)] ⟨false, false, false⟩ [])
      [(1, 0xF0)] [] ⟨false, true, true⟩ 0x0102 false = true := by decide

/-- SUB-5: SUB R1, R1 -/
theorem test_sub_5 :
    becomes (cpu 0x0100 [0x32, 0x11] [(1, 0xC7)] ⟨false, true, true⟩ [])
      [(1, 0x00)] [] ⟨true, false, false⟩ 0x0102 false = true := by decide

/-- SBC-2: SBC R1, R3 -/
theorem test_sbc_2 :
    becomes (cpu 0x0100 [0x33, 0x13] [(1, 0x00), (3, 0xFF)] ⟨false, true, false⟩ [])
      [] [] ⟨true, true, false⟩ 0x0102 false = true := by decide

/-- SBC-6: SBC R1, R3 -/
theorem test_sbc_6 :
    becomes (cpu 0x0100 [0x33, 0x13] [(1, 0x80), (3, 0x7F)] ⟨false, true, false⟩ [])
      [(1, 0x00)] [] ⟨true, false, false⟩ 0x0102 false = true := by decide

/-- INC-1: INC R3 -/
theorem test_inc_1 :
    becomes (cpu 0x0100 [0x34, 0x30] [(3, 0xFF)] ⟨false, false, false⟩ [])
      [(3, 0x00)] [] ⟨true, true, false⟩ 0x0102 false = true := by decide

/-- INC-4: INC R3 (non-canonical) -/
theorem test_inc_4 :
    becomes (cpu 0x0100 [0x34, 0x3F] [(3, 0x41)] ⟨false, false, false⟩ [])
      [(3, 0x42)] [] ⟨false, false, false⟩ 0x0102 false = true := by decide

/-- DEC-2: DEC R3 -/
theorem test_dec_2 :
    becomes (cpu 0x0100 [0x35, 0x30] [(3, 0x00)] ⟨false, false, false⟩ [])
      [(3, 0xFF)] [] ⟨false, true, true⟩ 0x0102 false = true := by decide

/-- DEC-3: DEC R3 -/
theorem test_dec_3 :
    becomes (cpu 0x0100 [0x35, 0x30] [(3, 0x80)] ⟨false, true, true⟩ [])
      [(3, 0x7F)] [] ⟨false, false, false⟩ 0x0102 false = true := by decide

/-- CMP-1: CMP R1, R2 -/
theorem test_cmp_1 :
    becomes (cpu 0x0100 [0x36, 0x12] [(1, 0x05), (2, 0x09)] ⟨false, false, false⟩ [])
      [] [] ⟨false, true, true⟩ 0x0102 false = true := by decide

/-- CMP-5: CMP R1, R2 -/
theorem test_cmp_5 :
    becomes (cpu 0x0100 [0x36, 0x12] [(1, 0x00), (2, 0xFF)] ⟨false, false, false⟩ [])
      [] [] ⟨false, true, false⟩ 0x0102 false = true := by decide

/-- MUL-3: MUL R2, R5 -/
theorem test_mul_3 :
    becomes (cpu 0x0100 [0x37, 0x25] [(2, 0x10), (3, 0x77), (5, 0x10)] ⟨false, false, false⟩ [])
      [(2, 0x01), (3, 0x00)] [] ⟨false, true, false⟩ 0x0102 false = true := by decide

/-- MUL-6: MUL R15, R1 -/
theorem test_mul_6 :
    becomes (cpu 0x0100 [0x37, 0xF1] [(0, 0x77), (1, 0x34), (15, 0x12)] ⟨false, false, false⟩ [])
      [(0, 0xA8), (15, 0x03)] [] ⟨false, true, true⟩ 0x0102 false = true := by decide

/-- DIV-5: DIV R2, R4 -/
theorem test_div_5 :
    becomes (cpu 0x0100 [0x38, 0x24] [(2, 0x64), (3, 0x77), (4, 0x00)] ⟨false, true, false⟩ [])
      [(2, 0xFF), (3, 0x64)] [] ⟨false, false, true⟩ 0x0102 false = true := by decide

/-- DIV-7: DIV R15, R1 -/
theorem test_div_7 :
    becomes (cpu 0x0100 [0x38, 0xF1] [(0, 0x77), (1, 0x07), (15, 0x64)] ⟨false, false, false⟩ [])
      [(0, 0x02), (15, 0x0E)] [] ⟨false, false, false⟩ 0x0102 false = true := by decide

/-- AND-1: AND R1, R2 -/
theorem test_and_1 :
    becomes (cpu 0x0100 [0x40, 0x12] [(1, 0xF0), (2, 0x3C)] ⟨false, true, false⟩ [])
      [(1, 0x30)] [] ⟨false, false, false⟩ 0x0102 false = true := by decide

/-- AND-2: AND R1, R2 -/
theorem test_and_2 :
    becomes (cpu 0x0100 [0x40, 0x12] [(1, 0xF0), (2, 0x0F)] ⟨false, false, false⟩ [])
      [(1, 0x00)] [] ⟨true, false, false⟩ 0x0102 false = true := by decide

/-- OR-1: OR R1, R2 -/
theorem test_or_1 :
    becomes (cpu 0x0100 [0x41, 0x12] [(1, 0x81), (2, 0x0E)] ⟨false, true, false⟩ [])
      [(1, 0x8F)] [] ⟨false, false, true⟩ 0x0102 false = true := by decide

/-- OR-2: OR R1, R2 -/
theorem test_or_2 :
    becomes (cpu 0x0100 [0x41, 0x12] [(1, 0x00), (2, 0x00)] ⟨false, true, true⟩ [])
      [] [] ⟨true, false, false⟩ 0x0102 false = true := by decide

/-- XOR-1: XOR R1, R2 -/
theorem test_xor_1 :
    becomes (cpu 0x0100 [0x42, 0x12] [(1, 0xFF), (2, 0x0F)] ⟨false, true, false⟩ [])
      [(1, 0xF0)] [] ⟨false, false, true⟩ 0x0102 false = true := by decide

/-- XOR-2: XOR R1, R1 -/
theorem test_xor_2 :
    becomes (cpu 0x0100 [0x42, 0x11] [(1, 0xA5)] ⟨false, true, true⟩ [])
      [(1, 0x00)] [] ⟨true, false, false⟩ 0x0102 false = true := by decide

/-- NOT-2: NOT R3 -/
theorem test_not_2 :
    becomes (cpu 0x0100 [0x43, 0x30] [(3, 0xFF)] ⟨false, false, false⟩ [])
      [(3, 0x00)] [] ⟨true, false, false⟩ 0x0102 false = true := by decide

/-- NOT-4: NOT R3 (non-canonical) -/
theorem test_not_4 :
    becomes (cpu 0x0100 [0x43, 0x3A] [(3, 0x55)] ⟨false, false, false⟩ [])
      [(3, 0xAA)] [] ⟨false, false, true⟩ 0x0102 false = true := by decide

/-- SHL-2: SHL R3 -/
theorem test_shl_2 :
    becomes (cpu 0x0100 [0x44, 0x30] [(3, 0x40)] ⟨false, true, false⟩ [])
      [(3, 0x81)] [] ⟨false, false, true⟩ 0x0102 false = true := by decide

/-- SHL-3: SHL R3 -/
theorem test_shl_3 :
    becomes (cpu 0x0100 [0x44, 0x30] [(3, 0x80)] ⟨false, false, false⟩ [])
      [(3, 0x00)] [] ⟨true, true, false⟩ 0x0102 false = true := by decide

/-- SHR-3: SHR R3 -/
theorem test_shr_3 :
    becomes (cpu 0x0100 [0x45, 0x30] [(3, 0x01)] ⟨false, false, false⟩ [])
      [(3, 0x00)] [] ⟨true, true, false⟩ 0x0102 false = true := by decide

/-- SHR-5: SHR R3 (non-canonical) -/
theorem test_shr_5 :
    becomes (cpu 0x0100 [0x45, 0x31] [(3, 0x80)] ⟨false, false, false⟩ [])
      [(3, 0x40)] [] ⟨false, false, false⟩ 0x0102 false = true := by decide

/-- TEST-1: TEST R1, R0 -/
theorem test_test_1 :
    becomes (cpu 0x0100 [0x46, 0x10] [(0, 0x80), (1, 0xC3)] ⟨false, true, false⟩ [])
      [] [] ⟨false, true, true⟩ 0x0102 false = true := by decide

/-- TEST-3: TEST R5, R5 -/
theorem test_test_3 :
    becomes (cpu 0x0100 [0x46, 0x55] [(5, 0x00)] ⟨false, true, false⟩ [])
      [] [] ⟨true, true, false⟩ 0x0102 false = true := by decide

/-- JMP-2: JMP $F6 -/
theorem test_jmp_2 :
    becomes (cpu 0x0210 [0x50, 0xF6] [] ⟨false, false, false⟩ [])
      [] [] ⟨false, false, false⟩ 0x0208 false = true := by decide

/-- JMP-6: JMP $80 -/
theorem test_jmp_6 :
    becomes (cpu 0x0004 [0x50, 0x80] [] ⟨false, false, false⟩ [])
      [] [] ⟨false, false, false⟩ 0xFF86 false = true := by decide

/-- JMPL-2: JMPL R5, R4 -/
theorem test_jmpl_2 :
    becomes (cpu 0x0100 [0x51, 0x54] [(4, 0x12), (5, 0x80)] ⟨false, false, false⟩ [])
      [] [] ⟨false, false, false⟩ 0x8012 false = true := by decide

/-- JMPL-3: JMPL R6, R6 -/
theorem test_jmpl_3 :
    becomes (cpu 0x0100 [0x51, 0x66] [(6, 0x44)] ⟨true, false, true⟩ [])
      [] [] ⟨true, false, true⟩ 0x4444 false = true := by decide

/-- JZ-1: JZ $04 -/
theorem test_jz_1 :
    becomes (cpu 0x0100 [0x52, 0x04] [] ⟨true, false, false⟩ [])
      [] [] ⟨true, false, false⟩ 0x0106 false = true := by decide

/-- JZ-2: JZ $04 -/
theorem test_jz_2 :
    becomes (cpu 0x0100 [0x52, 0x04] [] ⟨false, true, true⟩ [])
      [] [] ⟨false, true, true⟩ 0x0102 false = true := by decide

/-- JNZ-1: JNZ $FA -/
theorem test_jnz_1 :
    becomes (cpu 0x0108 [0x53, 0xFA] [] ⟨false, false, false⟩ [])
      [] [] ⟨false, false, false⟩ 0x0104 false = true := by decide

/-- JNZ-2: JNZ $FA -/
theorem test_jnz_2 :
    becomes (cpu 0x0108 [0x53, 0xFA] [] ⟨true, false, false⟩ [])
      [] [] ⟨true, false, false⟩ 0x010A false = true := by decide

/-- JC-1: JC $10 -/
theorem test_jc_1 :
    becomes (cpu 0x0100 [0x54, 0x10] [] ⟨false, true, false⟩ [])
      [] [] ⟨false, true, false⟩ 0x0112 false = true := by decide

/-- JC-2: JC $10 -/
theorem test_jc_2 :
    becomes (cpu 0x0100 [0x54, 0x10] [] ⟨true, false, true⟩ [])
      [] [] ⟨true, false, true⟩ 0x0102 false = true := by decide

/-- JNC-1: JNC $10 -/
theorem test_jnc_1 :
    becomes (cpu 0x0100 [0x55, 0x10] [] ⟨true, false, true⟩ [])
      [] [] ⟨true, false, true⟩ 0x0112 false = true := by decide

/-- JNC-2: JNC $10 -/
theorem test_jnc_2 :
    becomes (cpu 0x0100 [0x55, 0x10] [] ⟨false, true, false⟩ [])
      [] [] ⟨false, true, false⟩ 0x0102 false = true := by decide

/-- JN-1: JN $7E -/
theorem test_jn_1 :
    becomes (cpu 0x0100 [0x56, 0x7E] [] ⟨false, false, true⟩ [])
      [] [] ⟨false, false, true⟩ 0x0180 false = true := by decide

/-- JN-2: JN $7E -/
theorem test_jn_2 :
    becomes (cpu 0x0100 [0x56, 0x7E] [] ⟨true, true, false⟩ [])
      [] [] ⟨true, true, false⟩ 0x0102 false = true := by decide

/-- CALL-2: CALL $F0 -/
theorem test_call_2 :
    becomes (cpu 0x0300 [0x57, 0xF0] [(14, 0x7F), (15, 0xFE)] ⟨false, false, false⟩ [])
      [(15, 0xFC)] [(0x7FFC, 0x03), (0x7FFD, 0x02)] ⟨false, false, false⟩ 0x02F2 false = true := by decide

/-- CALL-3: CALL $10 -/
theorem test_call_3 :
    becomes (cpu 0x0200 [0x57, 0x10] [(14, 0x00), (15, 0x01)] ⟨false, false, false⟩ [])
      [(14, 0xFF), (15, 0xFF)] [(0x0000, 0x02), (0xFFFF, 0x02)] ⟨false, false, false⟩ 0x0212 false = true := by decide

/-- CALLL-1: CALLL R2, R3 -/
theorem test_calll_1 :
    becomes (cpu 0x0300 [0x58, 0x23] [(2, 0x40), (3, 0x00), (14, 0x7F), (15, 0xFE)] ⟨false, false, false⟩ [])
      [(15, 0xFC)] [(0x7FFC, 0x03), (0x7FFD, 0x02)] ⟨false, false, false⟩ 0x4000 false = true := by decide

/-- CALLL-3: CALLL R14, R15 -/
theorem test_calll_3 :
    becomes (cpu 0x0300 [0x58, 0xEF] [(14, 0x80), (15, 0x00)] ⟨false, false, false⟩ [])
      [(14, 0x7F), (15, 0xFE)] [(0x7FFE, 0x03), (0x7FFF, 0x02)] ⟨false, false, false⟩ 0x7FFE false = true := by decide

/-- RET-2: RET -/
theorem test_ret_2 :
    becomes (cpu 0x0220 [0x59, 0x00] [(14, 0xFF), (15, 0xFF)] ⟨false, false, false⟩ [(0x0000, 0x34), (0xFFFF, 0x12)])
      [(14, 0x00), (15, 0x01)] [] ⟨false, false, false⟩ 0x1234 false = true := by decide

/-- RET-3: RET (non-canonical) -/
theorem test_ret_3 :
    becomes (cpu 0x0220 [0x59, 0xAA] [(14, 0x7F), (15, 0xFE)] ⟨false, false, false⟩ [(0x7FFE, 0x02), (0x7FFF, 0x06)])
      [(14, 0x80), (15, 0x00)] [] ⟨false, false, false⟩ 0x0206 false = true := by decide

/-- PUSH-4: PUSH R15, R1 -/
theorem test_push_4 :
    becomes (cpu 0x0100 [0x60, 0xF1] [(0, 0xA0), (1, 0xA1), (14, 0x80), (15, 0x00)] ⟨false, false, false⟩ [])
      [(14, 0x7F), (15, 0xFD)] [(0x7FFD, 0xA1), (0x7FFE, 0xA0), (0x7FFF, 0xFF)] ⟨false, false, false⟩ 0x0102 false = true := by decide

/-- PUSH-5: PUSH R14, R15 -/
theorem test_push_5 :
    becomes (cpu 0x0100 [0x60, 0xEF] [(14, 0x80), (15, 0x00)] ⟨false, false, false⟩ [])
      [(14, 0x7F), (15, 0xFE)] [(0x7FFE, 0xFE), (0x7FFF, 0x7F)] ⟨false, false, false⟩ 0x0102 false = true := by decide

/-- POP-1d: POP R1, R3 -/
theorem test_pop_1d :
    becomes (withCfg (cpu 0x0100 [0x61, 0x13] [(14, 0x7F), (15, 0xFD)] ⟨false, false, false⟩
        [(0x7FFD, 0x33), (0x7FFE, 0x22), (0x7FFF, 0x11)]) ⟨.descending, .documented, false⟩)
      [(1, 0x11), (2, 0x22), (3, 0x33), (14, 0x80), (15, 0x00)] [] ⟨false, false, false⟩ 0x0102 false = true := by decide

/-- POP-5: POP R14, R15 -/
theorem test_pop_5 :
    becomes (cpu 0x0100 [0x61, 0xEF] [(14, 0x70), (15, 0x00)] ⟨false, false, false⟩ [(0x1201, 0x34), (0x7000, 0x12)])
      [(14, 0x12), (15, 0x35)] [] ⟨false, false, false⟩ 0x0102 false = true := by decide

/-- NOP-2: NOP (non-canonical) -/
theorem test_nop_2 :
    becomes (cpu 0x0100 [0x00, 0x5A] [] ⟨false, true, false⟩ [])
      [] [] ⟨false, true, false⟩ 0x0102 false = true := by decide

/-- NOP-4: NOP -/
theorem test_nop_4 :
    becomes (cpu 0xFFFE [0x00, 0x00] [] ⟨false, false, false⟩ [])
      [] [] ⟨false, false, false⟩ 0x0000 false = true := by decide

/-- HLT-1: HLT -/
theorem test_hlt_1 :
    becomes (cpu 0x0120 [0xFF, 0x00] [] ⟨true, true, false⟩ [])
      [] [] ⟨true, true, false⟩ 0x0120 true = true := by decide

/-- HLT-2: HLT (non-canonical) -/
theorem test_hlt_2 :
    becomes (cpu 0x0120 [0xFF, 0xFF] [] ⟨false, false, false⟩ [])
      [] [] ⟨false, false, false⟩ 0x0120 true = true := by decide

/-! ### Faults, from the vectors -/

/-- DIV-6: a zero divisor under DIV0 = fault. -/
theorem test_div_6 :
    faultOf (step (withCfg (cpu 0x0100 [0x38, 0x24] [(2, 0x64), (3, 0x77)] clear []) ⟨.ascending, .fault, false⟩)) =
      some (.divideByZero 0x0100) := by decide

/-- NOP-3: a non-zero operand byte under STRICT_OPERAND. -/
theorem test_nop_3 :
    faultOf (step (withCfg (cpu 0x0100 [0x00, 0x5A] [] clear []) ⟨.ascending, .documented, true⟩)) =
      some (.nonCanonicalOperand 0x0100 0x00 0x5A) := by decide

/-- FLT-2: MisalignedPC is checked before the opcode. -/
theorem test_flt_2 : faultOf (step (cpu 0x0105 [0x01, 0x00] [] clear [])) = some (.misalignedPC 0x0105) := by decide

/-- FLT-3 to FLT-9: undefined opcodes. -/
theorem test_flt_3_to_9 :
    ([0x01, 0xFE, 0x62, 0x39, 0x16, 0x5A, 0x0F] : List Byte).all
      (fun op => decide (faultOf (step (cpu 0x0100 [op, 0x12] [] clear [])) = some (.illegalOpcode 0x0100 op))) = true := by decide

/-- FLT-11: LOADZ of a byte outside the image. -/
theorem test_flt_11 : faultOf (step (cpu 0x0100 [0x22, 0x40] [] clear [])) = some (.unwrittenRead 0x0040) := by decide

/-- FLT-14: the operand byte of NOP is fetched even though it is ignored. -/
theorem test_flt_14 : faultOf (step (cpu 0x0100 [0x00] [] clear [])) = some (.unwrittenRead 0x0101) := by decide

/-- FLT-18: LDI16 with its last byte not loaded. -/
theorem test_flt_18 : faultOf (step (cpu 0x0100 [0x13, 0x12, 0xAB] [] clear [])) = some (.unwrittenRead 0x0103) := by decide

/-- HLT-3: a halted machine does not change, even at an odd `pc` with nothing loaded. -/
theorem test_hlt_3 : becomes ((State.reset.setPc 0x0101).setHalted) [] [] clear 0x0101 true = true := by decide

/-! ### Witnesses: a state and operands that meet the hypotheses of an obligation -/

theorem witness_EncodeInvertsDecode : decode [0x13, 0x52, 0xAB, 0xCD, 0x77] = .ok (.ldi16 5 2 0xAB 0xCD, [0x77]) := by decide

/-- The first and the last byte of each range of undefined opcodes. -/
theorem witness_UndefinedOpcodesStopTheStep :
    ([0x01, 0x0F, 0x16, 0x1F, 0x24, 0x2F, 0x39, 0x3F, 0x47, 0x4F, 0x5A, 0x5F, 0x62, 0xFE] : List Byte).all (fun op =>
      let s := cpu 0x0100 [op, 0x00] [] clear []
      decide (s.halted = false ∧ isOdd s.pc = false ∧ s.memByte s.pc = some op ∧ s.memByte (s.pc + 1#16) = some 0 ∧
        faultOf (step s) = some (.illegalOpcode s.pc op))) = true := by decide

/-- The bytes next to each range, which the decoder accepts. -/
theorem witness_UndefinedOpcodesStopTheStep_neighbours :
    ([0x00, 0x10, 0x15, 0x20, 0x23, 0x30, 0x38, 0x40, 0x46, 0x50, 0x59, 0x60, 0x61, 0xFF] : List Byte).all (fun op =>
      match decode [op, 0, 0, 0] with
      | .ok _ => true
      | .error _ => false) = true := by decide

/-- The farthest labels, forward and backward, across the ends of the address space. -/
theorem witness_LabelOffsetReachesLabel :
    (((0xFF86#16).toNat : Int) = ((0x0004#16).toNat + 2 + (-128)) % 65536 ∧ relativeTarget 0x0004 0x80 = 0xFF86) ∧
    (((0x0071#16).toNat : Int) = ((0xFFF0#16).toNat + 2 + 127) % 65536 ∧ relativeTarget 0xFFF0 0x7F = 0x0071) := by decide

theorem witness_StepRunsDecodedInstruction :
    let s := cpu 0xFFFE [0x30, 0x12] [] clear []
    s.halted = false ∧ isOdd s.pc = false ∧ s.HoldsBytes s.pc [0x30, 0x12] ∧ decode [0x30, 0x12] = .ok (.add 1 2, []) := by
  refine ⟨by decide, by decide, ?_, by decide⟩
  intro k v h
  match k with
  | 0 => obtain rfl : v = 0x30 := by simpa using h.symm
         decide
  | 1 => obtain rfl : v = 0x12 := by simpa using h.symm
         decide
  | k + 2 => simp at h

theorem witness_WithFetchWordRunsTheWord :
    State.reset.halted = false ∧ isOdd State.reset.pc = false ∧ decodeTableWord 16 0x3012 = some (.add 1 2) := by decide

/-- One state for each clause. -/
theorem witness_FetchChecksInFixedOrder :
    (plain.setHalted).halted = true ∧
    (plain.halted = false ∧ isOdd (plain.setPc 0x0101).pc = true) ∧
    (State.reset.halted = false ∧ isOdd State.reset.pc = false ∧ State.reset.memByte State.reset.pc = none) ∧
    (let s := cpu 0x0100 [0x00] [] clear []
     s.memByte s.pc = some 0x00 ∧ s.memByte (s.pc + 1#16) = none) ∧
    (let s := cpu 0x0100 [0x01, 0x00] [] clear []
     s.memByte s.pc = some 0x01 ∧ s.memByte (s.pc + 1#16) = some 0x00 ∧ decodeFields 0x01 0x00 0#8 0#8 = none) ∧
    (let s := cpu 0x0100 [0x13, 0x12] [] clear []
     s.memByte s.pc = some 0x13 ∧ s.memByte (s.pc + 1#16) = some 0x12 ∧ s.memByte (s.pc + 2#16) = none) ∧
    (let s := cpu 0x0100 [0x13, 0x12, 0xAB] [] clear []
     (s.memByte (s.pc + 2#16)).isSome = true ∧ s.memByte (s.pc + 3#16) = none) := by decide

theorem witness_HaltedMachineStays : (plain.setHalted).halted = true := by decide

/-- A step that halts and a step that does not. -/
theorem witness_OnlyHltHalts :
    (let s := cpu 0x0120 [0xFF, 0x00] [] clear []
     s.halted = false ∧ ∃ t, step s = .next t ∧ t.halted = true) ∧
    (plain.halted = false ∧ ∃ t, step plain = .next t ∧ t.halted = false) :=
  ⟨⟨by decide, _, eq_next_of_answers State.reset (by decide), by decide⟩,
    ⟨by decide, _, eq_next_of_answers State.reset (by decide), by decide⟩⟩

/-- A run that ends: NOP at `$0100`, then HLT. -/
theorem witness_RunEndsExactlyAtHlt :
    let s := cpu 0x0100 [0x00, 0x00, 0xFF, 0x00] [] clear []
    s.halted = false ∧ ∃ t, EndsSuccessfully s t :=
  ⟨by decide, _, 2, eq_next_of_answers State.reset (by decide), by decide⟩

/-- A fault of each of the three cases. -/
theorem witness_InstructionFaultsOnlyAsListed :
    faultOf (exec (.load 1 2) State.reset) = some (.unwrittenRead 0) ∧
    faultOf (exec (.ret 7) strict) = some (.nonCanonicalOperand 0x0100 0x59 7) ∧
    faultOf (exec (.div 1 2) (withCfg plain ⟨.ascending, .fault, false⟩)) = some (.divideByZero 0x0100) := by decide

/-- A memory whose every byte from `lo` on, `n` of them, is 0. -/
def zeros (lo n : Nat) : Memory := (List.range' lo n).map (fun a => (a, 0#8))

theorem zeros_read (n : Nat) : ∀ lo a, lo ≤ a → a < lo + n → (zeros lo n).read a = some 0#8 := by
  induction n with
  | zero => intro lo a h h'; omega
  | succ n ih =>
    intro lo a h h'
    simp only [zeros, List.range'_succ, List.map_cons, Memory.read]
    split
    · rfl
    · exact ih (lo + 1) a (by omega) (by omega)

/-- A machine after reset with the spec's default configuration and an image that gives every byte a value. -/
def loaded : State := State.resetWith { ResetParams.named with mem := zeros 0 65536 }

theorem witness_EveryInstructionCompletesOnLoadedMemory : loaded.cfg = Config.default ∧ loaded.AllLoaded := by
  refine ⟨rfl, fun a => ?_⟩
  rw [show loaded.memByte a = some 0#8 from zeros_read 65536 0 a.toNat (by omega) (by have := a.isLt; omega)]
  rfl

theorem witness_StepKeepsMemoryCanonical : plain.mem.wf = true ∧ ∃ t, step plain = .next t :=
  ⟨by decide, _, eq_next_of_answers State.reset (by decide)⟩

theorem witness_ResetMemoryCanonical : Memory.wf [(0, 0x11), (0xFFFF, 0x22)] = true := by decide

theorem witness_StepKeepsConfigurationAndLoadedBytes : (∃ t, step plain = .next t) ∧ (plain.memByte 0x0000).isSome = true :=
  ⟨⟨_, eq_next_of_answers State.reset (by decide)⟩, by decide⟩

/-- A jump from the last even address, and a two-byte instruction there. -/
theorem witness_EvenProgramCounterStaysEven :
    (∃ t, exec (.jmp 0x80) (plain.setPc 0xFFFE) = .next t) ∧ (∃ t, exec (.mov 1 2) (plain.setPc 0xFFFE) = .next t) ∧
    isOdd (plain.setPc 0xFFFE).pc = false ∧ (Instr.jmp 0x80).offsetEven = true ∧
    (∀ x y, Instr.jmp 0x80 ≠ .jmpl x y) ∧ (∀ x y, Instr.jmp 0x80 ≠ .calll x y) ∧ (∀ u, Instr.jmp 0x80 ≠ .ret u) :=
  ⟨⟨_, eq_next_of_answers State.reset (by decide)⟩, ⟨_, eq_next_of_answers State.reset (by decide)⟩, by decide, by decide,
    nofun, nofun, nofun⟩

/-- Every instruction answers a next state at `plain`. It is the witness of each rule over all instructions:
FlagsChangeOnlyByTheirWriters, FlagsReadOnlyByTheirReaders, MemoryWrittenOnlyByStores, RegistersWrittenOnlyAsTabulated,
ProgramCounterAfterEachInstruction. -/
theorem witness_every_instruction_answers :
    ([.nop 7, .ldlo 15 15, .ldhi 15 15, .ldi0 0xFF, .ldi16 14 15 1 2, .mov 1 2, .swap 1 2, .load 1 15, .stor 15 15, .loadz 2,
      .storz 0xFF, .add 1 1, .adc 1 1, .sub 1 2, .sbc 1 2, .inc 15 15, .dec 15 15, .cmp 1 2, .mul 15 0, .div 15 0, .and 1 2,
      .or 1 2, .xor 1 2, .not 1 1, .shl 1 1, .shr 1 1, .test 1 2, .jmp 0x7F, .jmpl 1 2, .jz 0x80, .jnz 0x80, .jc 0x80,
      .jnc 0x80, .jn 0x80, .call 0x80, .calll 14 15, .ret 0xFF, .push 15 14, .pop 1 3, .hlt 0xFF] : List Instr).all
      (fun i => answers (exec i plain)) = true := by decide

theorem witness_FlagsChangeOnlyByTheirWriters : (∃ t, exec (.test 1 2) plain = .next t) ∧
    (Instr.test 1 2).writesC = false ∧ (∃ t, exec (.mov 1 2) plain = .next t) ∧ (Instr.mov 1 2).writesZN = false :=
  ⟨⟨_, eq_next_of_answers State.reset (by decide)⟩, by decide, ⟨_, eq_next_of_answers State.reset (by decide)⟩, by decide⟩

theorem witness_FlagsReadOnlyByTheirReaders : (∃ t, exec (.shl 1 0) plain = .next t) ∧ (Instr.shl 1 0).readsZ = false ∧
    (Instr.shl 1 0).readsN = false ∧ (∃ t, exec (.jn 2) plain = .next t) ∧ (Instr.jn 2).readsC = false :=
  ⟨⟨_, eq_next_of_answers State.reset (by decide)⟩, by decide, by decide, ⟨_, eq_next_of_answers State.reset (by decide)⟩,
    by decide⟩

theorem witness_MemoryWrittenOnlyByStores : (∃ t, exec (.pop 1 3) plain = .next t) ∧ (Instr.pop 1 3).storesMemory = false :=
  ⟨⟨_, eq_next_of_answers State.reset (by decide)⟩, by decide⟩

theorem witness_RegistersWrittenOnlyAsTabulated : ∃ t, exec (.mul 15 1) plain = .next t :=
  ⟨_, eq_next_of_answers State.reset (by decide)⟩

theorem witness_ProgramCounterAfterEachInstruction : ∃ t, exec (.ret 0) plain = .next t ∧ t.pc = 0x1122 :=
  ⟨_, eq_next_of_answers State.reset (by decide), by decide⟩

theorem witness_TwoNibbleLoadsMakeAnyByte : ∃ t, exec (.ldlo 3 (lowNibble 0xCA)) plain = .next t :=
  ⟨_, eq_next_of_answers State.reset (by decide)⟩

/-- LOAD and LOADZ, from a byte that holds a value and from one that does not, at the ends of the address space and of the zero
page. -/
theorem witness_LoadResults :
    (let s := cpu 0x0100 [] [(15, 0xFF), (0, 0xFF)] clear [(0xFFFF, 0xAB), (0x00FF, 0xCD)]
     (0xFFFF#16).toNat = 256 * (s.reg 15).toNat + (s.reg (15 + 1#4)).toNat ∧ s.memByte 0xFFFF = some 0xAB ∧
     (0x00FF#16).toNat = (0xFF#8).toNat ∧ s.memByte 0x00FF = some 0xCD) ∧
    (State.reset.memByte 0x0000 = none ∧
     (0x0000#16).toNat = 256 * (State.reset.reg 2).toNat + (State.reset.reg (2 + 1#4)).toNat ∧
     (0x0000#16).toNat = (0x00#8).toNat) := by decide

/-- The STOR of program P6, with the LDI0 after it. -/
theorem witness_StoreIsSeenByTheNextFetch :
    let s := cpu 0x0306 [0x21, 0x02, 0x12, 0x00] [(0, 0x2A), (2, 0x03), (3, 0x09)] clear []
    s.halted = false ∧ s.fetch = .ok (.stor 0 2) ∧ s.memByte (s.pc + 2#16) = some 0x12 ∧ s.pairAddress 2 = s.pc + 3#16 ∧
      decode [0x12, s.reg 0] = .ok (.ldi0 0x2A, []) ∧ ∃ t, step s = .next t :=
  ⟨by decide, by decide, by decide, by decide, by decide, _, eq_next_of_answers State.reset (by decide)⟩

/-- An unequal pair each way round and an equal pair. -/
theorem witness_CompareThenJumpDecides :
    let s := cpu 0x0100 [] [(1, 0x00), (2, 0xFF)] clear []
    (∃ t, exec (.cmp 1 2) s = .next t) ∧ (s.reg 1).toNat < (s.reg 2).toNat ∧
    (∃ t, exec (.cmp 2 1) s = .next t) ∧ (s.reg 1).toNat ≤ (s.reg 2).toNat ∧ (s.reg 2).toNat ≠ (s.reg 1).toNat ∧
    (∃ t, exec (.cmp 1 1) s = .next t) :=
  ⟨⟨_, eq_next_of_answers State.reset (by decide)⟩, by decide, ⟨_, eq_next_of_answers State.reset (by decide)⟩, by decide,
    by decide, _, eq_next_of_answers State.reset (by decide)⟩

/-- The source's own sequence, `ADD R0, R2` and then `ADC R1, R3`. -/
theorem witness_AddThenAdcAddsSixteenBits : (0 : RegNum) ≠ 1 ∧ (0 : RegNum) ≠ 3 ∧ ∃ t, exec (.add 0 2) plain = .next t :=
  ⟨by decide, by decide, _, eq_next_of_answers State.reset (by decide)⟩

/-- The source's own sequence, `SUB R0, R2` and then `SBC R1, R3`. -/
theorem witness_SubThenSbcSubtractsSixteenBits : (0 : RegNum) ≠ 1 ∧ (0 : RegNum) ≠ 3 ∧ ∃ t, exec (.sub 0 2) plain = .next t :=
  ⟨by decide, by decide, _, eq_next_of_answers State.reset (by decide)⟩

/-- The zero divisor under both settings, and the smallest divisor that is not zero. -/
theorem witness_DivideResult :
    (plain.reg 2 = 0#8 ∧ plain.cfg.div0 = .documented) ∧
    (let s := withCfg plain ⟨.ascending, .fault, false⟩
     s.reg 2 = 0#8 ∧ s.cfg.div0 = .fault) ∧
    (plain.setReg 2 1).reg 2 ≠ 0#8 := by decide

/-- A run of SHLs of one register. -/
def shlRun (k : Nat) : State :=
  match k with
  | 0 => plain
  | k + 1 => nextOr plain (exec (.shl 1 0) (shlRun k))

/-- A run of SHRs of one register. -/
def shrRun (k : Nat) : State :=
  match k with
  | 0 => plain
  | k + 1 => nextOr plain (exec (.shr 1 0) (shrRun k))

theorem witness_NineRotatesRestore :
    shlRun 0 = plain ∧ (∀ k, k < 9 → exec (.shl 1 0) (shlRun k) = .next (shlRun (k + 1))) ∧
    shrRun 0 = plain ∧ (∀ k, k < 9 → exec (.shr 1 0) (shrRun k) = .next (shrRun (k + 1))) :=
  ⟨rfl, fun _ _ => rfl, rfl, fun _ _ => rfl⟩

/-- A return, each byte that can be missing, and a refused operand byte. -/
theorem witness_ReturnResult :
    (plain.cfg.strictOperand = false ∧ plain.memByte plain.sp = some 0x11 ∧ plain.memByte (plain.sp + 1#16) = some 0x22) ∧
    (let s := plain.setSp 0xFFFF
     s.memByte s.sp = none) ∧
    (let s := plain.setSp 2
     (s.memByte s.sp).isSome = true ∧ s.memByte (s.sp + 1#16) = none) ∧
    (strict.cfg.strictOperand = true ∧ (1 : Byte) ≠ 0#8) := by decide

/-- CALL and CALLL with SP at the bottom of memory, the state after each being the one that RET runs in. -/
theorem witness_ReturnUndoesCall :
    (∃ t, exec (.call 0x80) plain = .next t) ∧ (∃ t, exec (.calll 14 15) plain = .next t) :=
  ⟨⟨_, eq_next_of_answers State.reset (by decide)⟩, _, eq_next_of_answers State.reset (by decide)⟩

/-- The ranges R12 to R13, next to R14, and R0 to R2, next to R15, at SP = 0: plain ranges whose bytes hold values. -/
theorem witness_PopResultForPlainRanges :
    (∀ k, k < (13#4 - 12#4).toNat + 1 → 12#4 + BitVec.ofNat 4 k ≠ 14#4 ∧ 12#4 + BitVec.ofNat 4 k ≠ 15#4) ∧
    (∀ k, k < (13#4 - 12#4).toNat + 1 → (plain.memByte (plain.sp + BitVec.ofNat 16 k)).isSome = true) ∧
    (∀ k, k < (2#4 - 0#4).toNat + 1 → 0#4 + BitVec.ofNat 4 k ≠ 14#4 ∧ 0#4 + BitVec.ofNat 4 k ≠ 15#4) ∧
    (∀ k, k < (2#4 - 0#4).toNat + 1 → (plain.memByte (plain.sp + BitVec.ofNat 16 k)).isSome = true) := by decide

/-- POP of a range with R14 and R15 that completes, and one that stops; `loaded` is a state with every byte loaded. -/
theorem witness_PopFollowsItsLoop :
    (∃ t, exec (.pop 14 15) (cpu 0x0100 [] [(14, 0x70)] clear [(0x1201, 0x34), (0x7000, 0x12)]) = .next t) ∧
    faultOf (exec (.pop 1 1) State.reset) = some (.unwrittenRead 0) ∧ loaded.AllLoaded :=
  ⟨⟨_, eq_next_of_answers State.reset (by decide)⟩, by decide, witness_EveryInstructionCompletesOnLoadedMemory.2⟩

theorem witness_PopUndoesPushOfOneRegister :
    (13 : RegNum) ≠ 14#4 ∧ (13 : RegNum) ≠ 15#4 ∧ (0 : RegNum) ≠ 14#4 ∧ (0 : RegNum) ≠ 15#4 ∧
      ∃ t, exec (.push 13 13) plain = .next t :=
  ⟨by decide, by decide, by decide, by decide, _, eq_next_of_answers State.reset (by decide)⟩

/-- The same range under both orders. -/
theorem witness_PushThenPopReversesOrRestores :
    (∀ k, k < (13#4 - 11#4).toNat + 1 → 11#4 + BitVec.ofNat 4 k ≠ 14#4 ∧ 11#4 + BitVec.ofNat 4 k ≠ 15#4) ∧
    (plain.cfg.popOrder = .ascending ∧ ∃ t, exec (.push 11 13) plain = .next t) ∧
    (let s := withCfg plain ⟨.descending, .documented, false⟩
     s.cfg.popOrder = .descending ∧ ∃ t, exec (.push 11 13) s = .next t) :=
  ⟨by decide, ⟨by decide, _, eq_next_of_answers State.reset (by decide)⟩,
    ⟨by decide, _, eq_next_of_answers State.reset (by decide)⟩⟩

/-- The admitted and the refused operand byte. -/
theorem witness_NopAndHltResults :
    (plain.cfg.strictOperand = false ∧ (strict.cfg.strictOperand = true ∧ (0 : Byte) = 0#8)) ∧
    (strict.cfg.strictOperand = true ∧ (0xFF : Byte) ≠ 0#8) := by decide

/-- Neighbours in a range that wraps: R15 and R0 in R15 to R1. -/
theorem witness_RegisterRangeCountsUp : (regRange 15 1)[0]? = some 15 ∧ (regRange 15 1)[1]? = some 0 := by decide

/-- The source's `ADD R0, R2` and then `ADC R1, R3`, across the top of the address space. -/
theorem witness_IdiomsRunAsTheirInstructions :
    let d := Idiom.add16 0 2 1 3
    let s := cpu 0xFFFE [0x30, 0x02, 0x31, 0x13] [] clear []
    s.halted = false ∧ isOdd s.pc = false ∧ encodeAll d.expand = [0x30, 0x02, 0x31, 0x13] ∧
      s.HoldsBytes s.pc [0x30, 0x02, 0x31, 0x13] ∧ (0 : RegNum) ≠ 1 ∧ (0 : RegNum) ≠ 3 := by
  refine ⟨by decide, by decide, by decide, ?_, by decide, by decide⟩
  intro k v h
  match k with
  | 0 => obtain rfl : v = 0x30 := by simpa using h.symm
         decide
  | 1 => obtain rfl : v = 0x02 := by simpa using h.symm
         decide
  | 2 => obtain rfl : v = 0x31 := by simpa using h.symm
         decide
  | 3 => obtain rfl : v = 0x13 := by simpa using h.symm
         decide
  | k + 4 => simp at h

/-- S3: `$12F0 + $0320 = $1610`, each number held low byte first. -/
theorem test_idiom_s3 :
    let t := nextOr plain (execAll (Idiom.add16 0 2 1 3).expand (cpu 0x0100 [] [(0, 0xF0), (1, 0x12), (2, 0x20), (3, 0x03)] clear []))
    t.reg 1 = 0x16 ∧ t.reg 0 = 0x10 ∧ t.flags.c = false := by decide

/-- No two opcodes share a mnemonic, so none is an alias of another (R60, R63). -/
theorem test_mnemonics_distinct :
    (([0x00, 0x10, 0x11, 0x12, 0x13, 0x14, 0x15, 0x20, 0x21, 0x22, 0x23, 0x30, 0x31, 0x32, 0x33, 0x34, 0x35, 0x36, 0x37, 0x38,
      0x40, 0x41, 0x42, 0x43, 0x44, 0x45, 0x46, 0x50, 0x51, 0x52, 0x53, 0x54, 0x55, 0x56, 0x57, 0x58, 0x59, 0x60, 0x61,
      0xFF] : List Byte).filterMap (fun op => (decodeFields op 0 0 0).map Instr.mnemonic)).Nodup := by decide

end Sys2Proof.Tests
end

section
/-! The flags (spec/10_state.md R21, R23): which instructions leave which flags alone. -/

namespace Sys2Proof.Machine

/-! ### What the meanings that can stop do when they complete -/

/-- NOP completes unless STRICT_OPERAND refuses its operand byte (R59, R155). -/
theorem execNop_next {u : Byte} {s t : State} :
    execNop u s = .next t ↔ (s.cfg.strictOperand = true → u = 0#8) ∧ t = s.advance 2 := by
  unfold execNop
  split
  · next f hf => obtain ⟨hstrict, hu, -⟩ := State.operandFault_some.mp hf; simp [raise, hstrict, hu]
  · next hf => rw [and_iff_right (State.operandFault_none.mp hf), Host.Outcome.next.injEq, eq_comm]

/-- HLT completes unless STRICT_OPERAND refuses its operand byte (R59, R156). -/
theorem execHlt_next {u : Byte} {s t : State} :
    execHlt u s = .next t ↔ (s.cfg.strictOperand = true → u = 0#8) ∧ t = s.setHalted := by
  unfold execHlt
  split
  · next f hf => obtain ⟨hstrict, hu, -⟩ := State.operandFault_some.mp hf; simp [raise, hstrict, hu]
  · next hf => rw [and_iff_right (State.operandFault_none.mp hf), Host.Outcome.next.injEq, eq_comm]

/-- RET completes when its operand byte is admitted and the return address can be popped (R59, R135). -/
theorem execRet_next {u : Byte} {s t : State} :
    execRet u s = .next t ↔ (s.cfg.strictOperand = true → u = 0#8) ∧ s.popReturn = .next t := by
  unfold execRet
  split
  · next f hf => obtain ⟨hstrict, hu, -⟩ := State.operandFault_some.mp hf; simp [raise, hstrict, hu]
  · next hf => rw [and_iff_right (State.operandFault_none.mp hf)]

/-- POP completes when its loop does (R147). -/
theorem execPop_next {x y : RegNum} {s t : State} :
    execPop x y s = .next t ↔
      ∃ u, s.popRegs (popOrderList s.cfg.popOrder (regRange x y)) = .ok u ∧ t = u.advance 2 := by
  unfold execPop
  split
  · next u hu => simp [hu, eq_comm]
  · next f hf => simp [hf, raise]

/-! ### What keeps every flag -/

/-- A load keeps the flags (R80). -/
theorem State.loadInto_flags {s t : State} {i : RegNum} {ea : Addr} (h : s.loadInto i ea = .next t) : t.flags = s.flags := by
  obtain ⟨v, -, rfl⟩ := State.loadInto_next.mp h
  simp

/-- A conditional jump keeps the flags, taken or not (R128 to R132). -/
theorem State.jumpIf_flags {s t : State} {cond : Bool} {off : Byte} (h : s.jumpIf cond off = .next t) : t.flags = s.flags := by
  obtain rfl := State.jumpIf_next.mp h
  simp

/-- RET keeps the flags (R135). -/
theorem execRet_flags {u : Byte} {s t : State} (h : execRet u s = .next t) : t.flags = s.flags := by
  obtain ⟨-, hpop⟩ := execRet_next.mp h
  obtain ⟨hi, lo, -, -, rfl⟩ := State.popReturn_next.mp hpop
  simp

/-- PUSH keeps the flags (R146). -/
theorem execPush_flags {x y : RegNum} {s t : State} (h : execPush x y s = .next t) : t.flags = s.flags := by
  obtain rfl := Host.Outcome.next.inj h
  obtain ⟨-, hflags, -⟩ := State.pushRegs_frame (regRange x y) s
  exact hflags

/-- POP keeps the flags (R147). -/
theorem execPop_flags {x y : RegNum} {s t : State} (h : execPop x y s = .next t) : t.flags = s.flags := by
  obtain ⟨u, hu, rfl⟩ := execPop_next.mp h
  obtain ⟨-, hflags, -⟩ := State.popRegs_frame hu
  exact hflags

/-- An instruction that R21 does not list as writing Z and N keeps all three flags, C included. -/
theorem exec_flags_of_not_writesZN {i : Instr} {s t : State} (h : exec i s = .next t) (hw : i.writesZN = false) :
    t.flags = s.flags := by
  cases i with
  | nop u => obtain ⟨-, rfl⟩ := execNop_next.mp h; rfl
  | hlt u => obtain ⟨-, rfl⟩ := execHlt_next.mp h; rfl
  | ldlo | ldhi | ldi0 | ldi16 | mov | swap | stor | storz | jmp | jmpl | call | calll =>
    obtain rfl := Host.Outcome.next.inj h; rfl
  | load | loadz => exact State.loadInto_flags h
  | jz | jnz | jc | jnc | jn => exact State.jumpIf_flags h
  | ret => exact execRet_flags h
  | push => exact execPush_flags h
  | pop => exact execPop_flags h
  | add | adc | sub | sbc | inc | dec | cmp | mul | div | and | or | xor | not | shl | shr | test => cases hw

/-! ### TEST, which keeps C alone -/

/-- TEST keeps C (R117). -/
theorem execTest_c {x y : RegNum} {s t : State} (h : execTest x y s = .next t) : t.flags.c = s.flags.c := by
  obtain rfl := Host.Outcome.next.inj h
  rfl

/-- In the table of R21, TEST is the only instruction that writes Z and N and not C. -/
theorem writesZN_false_or_test_of_not_writesC {i : Instr} (hw : i.writesC = false) :
    i.writesZN = false ∨ ∃ x y, i = .test x y := by
  cases i with
  | test x y => exact .inr ⟨x, y, rfl⟩
  | _ => exact .inl hw

/-- Settles O21: an instruction that does not write Z and N keeps every flag, and TEST is the only other one that does not write C. -/
theorem flagsChangeOnlyByTheirWriters : Obligations.FlagsChangeOnlyByTheirWriters := by
  intro i s t h
  refine ⟨fun hw => ?_, fun hw => ?_⟩
  · rw [exec_flags_of_not_writesZN h hw]
    exact ⟨rfl, rfl⟩
  · obtain hzn | ⟨x, y, rfl⟩ := writesZN_false_or_test_of_not_writesC hw
    · rw [exec_flags_of_not_writesZN h hzn]
    · exact execTest_c h

end Sys2Proof.Machine
end

section
/-! The idioms (spec/30_encoding.md R63): a sequence of instructions in memory runs as the meanings of its instructions in order, and
what the five sequences of R63 give. -/

namespace Sys2Proof.Machine

/-! ### Bytes in memory, and the fetch of an instruction that lies there -/

/-- Where one sequence of bytes lies before another, the second lies right after the first. -/
theorem State.HoldsBytes.of_append {s : State} {a : Addr} {l l' : List Byte} (h : s.HoldsBytes a (l ++ l')) :
    s.HoldsBytes a l ∧ s.HoldsBytes (a + BitVec.ofNat 16 l.length) l' := by
  constructor
  · intro k v hk
    obtain ⟨hlt, -⟩ := List.getElem?_eq_some_iff.mp hk
    exact h k v (by rw [List.getElem?_append_left hlt, hk])
  · intro k v hk
    rw [BitVec.add_assoc, ← BitVec.ofNat_add]
    exact h (l.length + k) v (by rw [List.getElem?_append_right (Nat.le_add_right _ _), Nat.add_sub_cancel_left, hk])

/-- Bytes that lie in memory lie in every memory that reads alike. -/
theorem State.HoldsBytes.of_keepsMem {s t : State} {a : Addr} {l : List Byte} (h : s.HoldsBytes a l) (hm : s.KeepsMem t) :
    t.HoldsBytes a l := fun k v hk => by rw [hm, h k v hk]

/-- The decoder reads back the fields that the encoder wrote (R51, R56); only LDI16 has immediate bytes. -/
theorem decodeFields_encode (i : Instr) {hi lo : Byte} (h : i.opcode = ldi16Opcode → i.immediateBytes = [hi, lo]) :
    decodeFields i.opcode i.operandByte hi lo = some i := by
  cases i with
  | ldi16 x y h' l' =>
    obtain ⟨rfl, rfl⟩ : h' = hi ∧ l' = lo := by simpa [Instr.immediateBytes] using h rfl
    simp [decodeFields, Instr.opcode, Instr.operandByte]
  | _ => simp [decodeFields, Instr.opcode, Instr.operandByte]

/-- LDI16 alone has immediate bytes, and it has two (R50). -/
theorem immediateBytes_cases (i : Instr) :
    (i.opcode ≠ ldi16Opcode ∧ i.immediateBytes = []) ∨ (i.opcode = ldi16Opcode ∧ ∃ hi lo, i.immediateBytes = [hi, lo]) := by
  cases i with
  | ldi16 x y hi lo => exact .inr ⟨rfl, hi, lo, rfl⟩
  | _ => exact .inl ⟨by simp [Instr.opcode, ldi16Opcode], rfl⟩

/-- An instruction whose bytes lie at an even `pc` is the one fetched (R5, R47). -/
theorem State.fetch_of_holdsBytes {s : State} {i : Instr} (heven : isOdd s.pc = false) (h : s.HoldsBytes s.pc (encode i)) :
    s.fetch = .ok i := by
  have hop : s.memByte s.pc = some i.opcode := by simpa using h 0 i.opcode rfl
  have harg : s.memByte (s.pc + 1#16) = some i.operandByte := h 1 i.operandByte rfl
  obtain ⟨hne, -⟩ | ⟨heq, hi, lo, himm⟩ := immediateBytes_cases i
  · exact State.fetch_ok.mpr ⟨heven, _, _, 0#8, 0#8, hop, harg, State.fetchImmediate_ok.mpr (.inr ⟨hne, rfl, rfl⟩),
      decodeFields_encode i (absurd · hne)⟩
  · have hhi : s.memByte (s.pc + 2#16) = some hi := h 2 hi (by simp [encode, himm])
    have hlo : s.memByte (s.pc + 3#16) = some lo := h 3 lo (by simp [encode, himm])
    exact State.fetch_ok.mpr ⟨heven, _, _, hi, lo, hop, harg, State.fetchImmediate_ok.mpr (.inl ⟨heq, hhi, hlo⟩),
      decodeFields_encode i fun _ => himm⟩

/-- The address after an instruction is even or odd as the instruction's own (R19, R50). -/
theorem isOdd_add_encode_length (a : Addr) (i : Instr) : isOdd (a + BitVec.ofNat 16 (encode i).length) = isOdd a := by
  obtain ⟨-, himm⟩ | ⟨-, hi, lo, himm⟩ := immediateBytes_cases i <;>
  · simp only [encode, himm, List.length_cons, List.length_nil, isOdd_eq_decide, BitVec.toNat_add, BitVec.toNat_ofNat]
    congr 2
    omega

/-! ### The frame of straight-line code -/

/-- From `s` to `t` only the registers of `l`, the flags and `pc` change, and `pc` moves on by `k`. -/
structure State.OnlyWrites (s t : State) (l : List RegNum) (k : Addr) : Prop where
  regs : s.KeepsRegsBut t l
  mem : s.KeepsMem t
  mode : s.KeepsMode t
  pc : t.pc = s.pc + k

/-- One stretch of straight-line code after another writes what either does. -/
theorem State.OnlyWrites.trans {s t u : State} {l l' : List RegNum} {j k : Addr} (h : s.OnlyWrites t l j)
    (h' : t.OnlyWrites u l' k) : s.OnlyWrites u (l ++ l') (j + k) where
  regs r hr := by
    obtain ⟨hl, hl'⟩ := not_or.mp (mt List.mem_append.mpr hr)
    rw [h'.regs r hl', h.regs r hl]
  mem a := by rw [h'.mem, h.mem]
  mode := ⟨h'.mode.1.trans h.mode.1, h'.mode.2.trans h.mode.2⟩
  pc := by rw [h'.pc, h.pc, BitVec.add_assoc]

/-- Two stretches that write the same registers. -/
theorem State.OnlyWrites.trans_same {s t u : State} {l : List RegNum} {j k : Addr} (h : s.OnlyWrites t l j)
    (h' : t.OnlyWrites u l k) : s.OnlyWrites u l (j + k) :=
  { h.trans h' with regs := fun r hr => (h.trans h').regs r (by simpa using hr) }

/-- Writing one register and moving on changes nothing else. -/
theorem State.onlyWrites_setReg (s : State) (x : RegNum) (v : Byte) : s.OnlyWrites ((s.setReg x v).advance 2) [x] 2#16 where
  regs r hr := by simp [State.reg_setReg_other s v (List.ne_of_not_mem_cons hr)]
  mem a := by simp
  mode := ⟨rfl, rfl⟩
  pc := rfl

/-- Writing the flags and moving on changes nothing else. -/
theorem State.onlyWrites_setFlags (s : State) (f : Flags) : s.OnlyWrites ((s.setFlags f).advance 2) [] 2#16 where
  regs r _ := by simp
  mem a := by simp
  mode := ⟨rfl, rfl⟩
  pc := rfl

/-- The state that `writeResult` leaves. -/
def State.afterResult (s : State) (x : RegNum) (r : Byte) (c : Bool) : State :=
  ((s.setReg x r).setFlags (resultFlags r c)).advance 2

theorem State.writeResult_eq (s : State) (x : RegNum) (r : Byte) (c : Bool) :
    s.writeResult x r c = .next (s.afterResult x r c) := rfl

@[simp] theorem State.afterResult_flags (s : State) (x : RegNum) (r : Byte) (c : Bool) :
    (s.afterResult x r c).flags = resultFlags r c := rfl

@[simp] theorem State.afterResult_reg_same (s : State) (x : RegNum) (r : Byte) (c : Bool) : (s.afterResult x r c).reg x = r := by
  simp [State.afterResult]

theorem State.afterResult_reg_other (s : State) {x i : RegNum} (r : Byte) (c : Bool) (h : i ≠ x) :
    (s.afterResult x r c).reg i = s.reg i := by
  simp [State.afterResult, State.reg_setReg_other s r h]

theorem State.onlyWrites_afterResult (s : State) (x : RegNum) (r : Byte) (c : Bool) :
    s.OnlyWrites (s.afterResult x r c) [x] 2#16 where
  regs _ hi := s.afterResult_reg_other r c (List.ne_of_not_mem_cons hi)
  mem a := by simp [State.afterResult]
  mode := ⟨rfl, rfl⟩
  pc := rfl

/-! ### Sequences of instructions run from memory -/

/-- The instruction always completes, and control passes to the instruction after it. -/
def FallsThrough (i : Instr) : Prop :=
  ∀ s : State, ∃ t l, exec i s = .next t ∧ s.OnlyWrites t l (BitVec.ofNat 16 (encode i).length)

/-- A run whose first step answers a next state goes on from there. -/
theorem stepN_succ_of_step {n : Nat} {s t : State} (h : step s = .next t) : stepN (n + 1) s = stepN n t := by
  simp [stepN, h]

/-- Where the bytes of instructions that fall through lie at an even `pc`, a running machine performs their meanings in order. -/
theorem stepN_eq_execAll {l : List Instr} (hl : ∀ i ∈ l, FallsThrough i) {s : State} (hrun : s.halted = false)
    (heven : isOdd s.pc = false) (hbytes : s.HoldsBytes s.pc (encodeAll l)) : stepN l.length s = execAll l s := by
  induction l generalizing s with
  | nil => rfl
  | cons i rest ih =>
    obtain ⟨hi, hrest⟩ := List.forall_mem_cons.mp hl
    obtain ⟨t, l', hexec, hframe⟩ := hi s
    obtain ⟨hhere, hafter⟩ := State.HoldsBytes.of_append hbytes
    have hstep : step s = .next t := (step_of_fetch hrun (State.fetch_of_holdsBytes heven hhere)).trans hexec
    have htail : stepN rest.length t = execAll rest t := by
      apply ih hrest
      · rw [hframe.mode.1, hrun]
      · rw [hframe.pc, isOdd_add_encode_length, heven]
      · rw [hframe.pc]
        exact hafter.of_keepsMem hframe.mem
    rw [List.length_cons, stepN_succ_of_step hstep, htail, execAll, hexec]

/-- An instruction of two bytes whose meaning is a `writeResult` falls through. -/
theorem fallsThrough_of_writeResult {i : Instr} (hlen : (encode i).length = 2)
    (h : ∀ s : State, ∃ x r c, exec i s = s.writeResult x r c) : FallsThrough i := by
  intro s
  obtain ⟨x, r, c, hexec⟩ := h s
  exact ⟨_, _, hexec, hlen ▸ s.onlyWrites_afterResult x r c⟩

/-- Every instruction of an idiom falls through. -/
theorem fallsThrough_of_mem_expand {d : Idiom} {i : Instr} (h : i ∈ d.expand) : FallsThrough i := by
  cases d with
  | loadByte x b =>
    obtain rfl | rfl : i = .ldlo x (lowNibble b) ∨ i = .ldhi x (highNibble b) := by simpa [Idiom.expand] using h
    · exact fun s => ⟨_, _, rfl, s.onlyWrites_setReg x _⟩
    · exact fun s => ⟨_, _, rfl, s.onlyWrites_setReg x _⟩
  | clear x =>
    obtain rfl : i = .xor x x := by simpa [Idiom.expand] using h
    exact fallsThrough_of_writeResult rfl fun s => ⟨_, _, _, rfl⟩
  | testZero x =>
    obtain rfl : i = .test x x := by simpa [Idiom.expand] using h
    exact fun s => ⟨_, _, rfl, s.onlyWrites_setFlags _⟩
  | add16 xl yl xh yh =>
    obtain rfl | rfl : i = .add xl yl ∨ i = .adc xh yh := by simpa [Idiom.expand] using h
    · exact fallsThrough_of_writeResult rfl fun s => ⟨_, _, _, rfl⟩
    · exact fallsThrough_of_writeResult rfl fun s => ⟨_, _, _, rfl⟩
  | sub16 xl yl xh yh =>
    obtain rfl | rfl : i = .sub xl yl ∨ i = .sbc xh yh := by simpa [Idiom.expand] using h
    · exact fallsThrough_of_writeResult rfl fun s => ⟨_, _, _, rfl⟩
    · exact fallsThrough_of_writeResult rfl fun s => ⟨_, _, _, rfl⟩

theorem execAll_single {i : Instr} {s t : State} (h : exec i s = .next t) : execAll [i] s = .next t :=
  execAll_cons_next.mpr ⟨t, h, rfl⟩

theorem execAll_pair {i j : Instr} {s t u : State} (hi : exec i s = .next t) (hj : exec j t = .next u) :
    execAll [i, j] s = .next u :=
  execAll_cons_next.mpr ⟨t, hi, execAll_single hj⟩

/-! ### The numbers and flags of a result -/

theorem zeroFlag_eq_true_iff (r : Byte) : zeroFlag r = true ↔ r.toNat = 0 := by
  simp [zeroFlag, ← BitVec.toNat_inj]

/-- Bit 7 is set from 128 on. -/
theorem negFlag_eq_true_iff (r : Byte) : negFlag r = true ↔ 128 ≤ r.toNat := by
  have hmsb : negFlag r = r.msb := by simp [negFlag, BitVec.msb_eq_getLsbD_last]
  rw [hmsb, BitVec.msb_eq_decide, decide_eq_true_eq]

theorem resultFlags_describeZN (r : Byte) (c : Bool) : (resultFlags r c).DescribeZN r :=
  ⟨zeroFlag_eq_true_iff r, negFlag_eq_true_iff r⟩

theorem testFlags_describeZN (old : Flags) (r : Byte) : (testFlags old r).DescribeZN r :=
  ⟨zeroFlag_eq_true_iff r, negFlag_eq_true_iff r⟩

/-- The byte and the carry of a sum that fits in nine bits are its two parts (R91, R92). -/
theorem sumByte_add_sumCarry {n : Nat} (h : n < 512) : (sumByte n).toNat + 256 * (sumCarry n).toNat = n := by
  have hcarry : (sumCarry n).toNat = n / 256 := by
    by_cases hn : n > 0xFF
    · simp only [sumCarry, hn, decide_true, Bool.toNat_true]; omega
    · simp only [sumCarry, hn, decide_false, Bool.toNat_false]; omega
  rw [hcarry, sumByte, BitVec.toNat_ofNat]
  omega

/-- The byte of a difference is the exact difference, with 256 borrowed where the borrow says so (R93, R94). -/
theorem diffByte_eq_add_borrow (a b : Byte) (c : Bool) :
    ((diffByte (exactDiff a b c)).toNat : Int) = exactDiff a b c + 256 * (diffBorrow a b c).toNat := by
  have ha := a.isLt
  have hb := b.isLt
  have hc := Bool.toNat_le c
  rw [diffByte, BitVec.toNat_ofInt, exactDiff, diffBorrow]
  by_cases h : b.toNat + c.toNat > a.toNat
  · simp only [h, decide_true, Bool.toNat_true]; omega
  · simp only [h, decide_false, Bool.toNat_false]; omega

/-- A sum of the low bytes whose carry goes into a sum of the high bytes is the sum of the 16-bit numbers (R92's example). -/
theorem wide_sum (ah al bh bl : Byte) :
    let m : Int := 256 * ah.toNat + al.toNat
    let k : Int := 256 * bh.toNat + bl.toNat
    let low := al.toNat + bl.toNat
    let high := ah.toNat + bh.toNat + (sumCarry low).toNat
    (256 * (sumByte high).toNat + (sumByte low).toNat : Int) = (m + k) % 65536 ∧ (sumCarry high = true ↔ 65536 ≤ m + k) := by
  intro m k low high
  have hcarry := Bool.toNat_le (sumCarry low)
  have hlow := sumByte_add_sumCarry (n := low) (by omega)
  have hhigh := sumByte_add_sumCarry (n := high) (by omega)
  rw [← Bool.toNat_eq_one]
  omega

/-- A difference of the low bytes whose borrow goes into a difference of the high bytes is the difference of the 16-bit numbers
(R94's example). -/
theorem wide_difference (ah al bh bl : Byte) :
    let m : Int := 256 * ah.toNat + al.toNat
    let k : Int := 256 * bh.toNat + bl.toNat
    let borrow := diffBorrow al bl false
    (256 * (diffByte (exactDiff ah bh borrow)).toNat + (diffByte (exactDiff al bl false)).toNat : Int) = (m - k) % 65536 ∧
      (diffBorrow ah bh borrow = true ↔ m < k) := by
  intro m k borrow
  have hborrow := Bool.toNat_le (diffBorrow ah bh borrow)
  have hlow : (_ : Int) = exactDiff al bl false + 256 * borrow.toNat := diffByte_eq_add_borrow al bl false
  have hhigh := diffByte_eq_add_borrow ah bh borrow
  rw [← Bool.toNat_eq_one]
  simp only [exactDiff, Bool.toNat_false] at hlow hhigh ⊢
  omega

/-! ### What each idiom gives -/

/-- LDHI of the high nibble over LDLO's byte is the whole byte (R71, R72). -/
theorem loadHighNibble_loadLowNibble (b : Byte) : loadHighNibble (loadLowNibble (lowNibble b)) (highNibble b) = b := by
  have hlow : (loadLowNibble (lowNibble b)).extractLsb' 0 4 = lowNibble b := lowNibble_joinNibbles 0#4 (lowNibble b)
  rw [loadHighNibble, hlow]
  exact joinNibbles_nibbles b

theorem loadByte_gives (s : State) (x : RegNum) (b : Byte) :
    ∃ t, execAll (Idiom.loadByte x b).expand s = .next t ∧ t.reg x = b ∧ t.flags = s.flags ∧ s.OnlyWrites t [x] 4#16 := by
  refine ⟨_, execAll_pair rfl rfl, ?_, rfl, State.OnlyWrites.trans_same (s.onlyWrites_setReg x _) (State.onlyWrites_setReg _ x _)⟩
  simp [loadHighNibble_loadLowNibble]

theorem clear_gives (s : State) (x : RegNum) :
    ∃ t, execAll (Idiom.clear x).expand s = .next t ∧ t.reg x = 0#8 ∧ t.flags = ⟨true, false, false⟩ ∧
      s.OnlyWrites t [x] 2#16 := by
  have hexec : exec (.xor x x) s = .next (s.afterResult x 0#8 false) := by
    change s.writeResult x (s.reg x ^^^ s.reg x) false = _
    rw [BitVec.xor_self, State.writeResult_eq]
  exact ⟨_, execAll_single hexec, s.afterResult_reg_same x 0#8 false, rfl, s.onlyWrites_afterResult x 0#8 false⟩

theorem testZero_gives (s : State) (x : RegNum) :
    ∃ t, execAll (Idiom.testZero x).expand s = .next t ∧ t.flags.DescribeZN (s.reg x) ∧ t.flags.c = s.flags.c ∧
      s.OnlyWrites t [] 2#16 := by
  have hexec : exec (.test x x) s = .next ((s.setFlags (testFlags s.flags (s.reg x))).advance 2) := by
    change Host.Outcome.next ((s.setFlags (testFlags s.flags (s.reg x &&& s.reg x))).advance 2) = _
    rw [BitVec.and_self]
  exact ⟨_, execAll_single hexec, testFlags_describeZN s.flags (s.reg x), rfl, s.onlyWrites_setFlags _⟩

/-- The idiom `d` leaves the number `n`, modulo 65536, in `xh:xl` and the truth of `c` in C, unless its first destination `xl` is an
operand of its second instruction; whatever the registers, Z and N describe `xh`, and nothing else changes but `pc`. -/
def GivesWide (s : State) (d : Idiom) (xl xh yh : RegNum) (n : Int) (c : Prop) : Prop :=
  ∃ t, execAll d.expand s = .next t ∧
    (xl ≠ xh → xl ≠ yh → (256 * (t.reg xh).toNat + (t.reg xl).toNat : Int) = n % 65536 ∧ (t.flags.c = true ↔ c)) ∧
    t.flags.DescribeZN (t.reg xh) ∧ s.KeepsRegsBut t [xl, xh] ∧ s.KeepsMem t ∧ s.KeepsMode t ∧ t.pc = s.pc + 4#16

/-- Two instructions that write a byte each with `writeResult` give a wide result, once the two bytes and the last carry are right
where the first destination is no operand of the second. -/
theorem givesWide_of_writeResults {s t : State} {d : Idiom} {i j : Instr} {xl xh yh : RegNum} {rl rh : Byte} {cl ch : Bool}
    {n : Int} {c : Prop} (hd : d.expand = [i, j]) (ht : t = s.afterResult xl rl cl) (hi : exec i s = s.writeResult xl rl cl)
    (hj : exec j t = t.writeResult xh rh ch)
    (hval : t.reg xh = s.reg xh → t.reg yh = s.reg yh → (256 * rh.toNat + rl.toNat : Int) = n % 65536 ∧ (ch = true ↔ c)) :
    GivesWide s d xl xh yh n c := by
  subst ht
  have hframe := (s.onlyWrites_afterResult xl rl cl).trans (State.onlyWrites_afterResult _ xh rh ch)
  refine ⟨_, hd ▸ execAll_pair hi hj, fun hxh hyh => ?_, ?_, hframe.regs, hframe.mem, hframe.mode, hframe.pc⟩
  · rw [State.afterResult_reg_same, State.afterResult_reg_other _ _ _ hxh, State.afterResult_reg_same]
    exact hval (s.afterResult_reg_other rl cl hxh.symm) (s.afterResult_reg_other rl cl hyh.symm)
  · rw [State.afterResult_reg_same]
    exact resultFlags_describeZN rh ch

theorem add16_gives (s : State) (xl yl xh yh : RegNum) {m k : Int} (hm : m = 256 * (s.reg xh).toNat + (s.reg xl).toNat)
    (hk : k = 256 * (s.reg yh).toNat + (s.reg yl).toNat) :
    GivesWide s (.add16 xl yl xh yh) xl xh yh (m + k) (65536 ≤ m + k) := by
  subst hm hk
  refine givesWide_of_writeResults rfl rfl rfl rfl fun hxh hyh => ?_
  rw [hxh, hyh]
  exact wide_sum (s.reg xh) (s.reg xl) (s.reg yh) (s.reg yl)

theorem sub16_gives (s : State) (xl yl xh yh : RegNum) {m k : Int} (hm : m = 256 * (s.reg xh).toNat + (s.reg xl).toNat)
    (hk : k = 256 * (s.reg yh).toNat + (s.reg yl).toNat) :
    GivesWide s (.sub16 xl yl xh yh) xl xh yh (m - k) (m < k) := by
  subst hm hk
  refine givesWide_of_writeResults rfl rfl rfl rfl fun hxh hyh => ?_
  rw [hxh, hyh]
  exact wide_difference (s.reg xh) (s.reg xl) (s.reg yh) (s.reg yl)

/-- Settles O60: the bytes of an idiom run as its instructions, by `stepN_eq_execAll`; each idiom's result is a lemma of its own. -/
theorem idiomsRunAsTheirInstructions : Obligations.IdiomsRunAsTheirInstructions := by
  refine ⟨fun d s hrun heven hbytes => ?_, fun s => ⟨?_, ?_, ?_, ?_⟩⟩
  · exact stepN_eq_execAll (fun _ => fallsThrough_of_mem_expand) hrun heven hbytes
  · intro x b
    obtain ⟨t, hexec, hx, hflags, hframe⟩ := loadByte_gives s x b
    exact ⟨t, hexec, hx, hframe.regs, hflags, hframe.mem, hframe.mode, hframe.pc⟩
  · intro x
    obtain ⟨t, hexec, hx, hflags, hframe⟩ := clear_gives s x
    exact ⟨t, hexec, hx, hframe.regs, hflags, hframe.mem, hframe.mode, hframe.pc⟩
  · intro x
    obtain ⟨t, hexec, hzn, hc, hframe⟩ := testZero_gives s x
    exact ⟨t, hexec, hzn, hc, hframe.regs, hframe.mem, hframe.mode, hframe.pc⟩
  · intro xl yl xh yh
    exact ⟨add16_gives s xl yl xh yh rfl rfl, sub16_gives s xl yl xh yh rfl rfl⟩

end Sys2Proof.Machine
end

section
/-! Data movement (spec/40_data_movement.md): the two bytes of an instruction decode to it, and what LDLO, LDHI, LDI0, MOV and SWAP
write. -/

namespace Sys2Proof.Machine

/-! ### Decoding and the bytes that the nibble loads write -/

/-- An instruction other than LDI16 is decoded from its opcode byte and its operand byte alone (R50, R52). -/
theorem decodesTo_of_opcode_ne {i : Instr} {op arg : Byte} (hop : i.opcode = op) (harg : i.operandByte = arg)
    (h : op ≠ ldi16Opcode) : DecodesTo op arg i := by
  subst hop harg
  intro rest
  have hfields : decodeFields i.opcode i.operandByte 0#8 0#8 = some i := decodeFields_encode i (absurd · h)
  simp only [decode, if_neg h, hfields, decodeAnswer]

theorem loadLowNibble_toNat (imm : Nibble) : (loadLowNibble imm).toNat = imm.toNat := by
  have hjoin : (loadLowNibble imm).toNat = 16 * (0#4).toNat + imm.toNat := joinNibbles_toNat 0#4 imm
  simpa using hjoin

theorem loadHighNibble_toNat (old : Byte) (imm : Nibble) : (loadHighNibble old imm).toNat = 16 * imm.toNat + old.toNat % 16 := by
  rw [← lowNibble_toNat]
  exact joinNibbles_toNat imm (lowNibble old)

/-! ### One register written, and two -/

/-- An instruction whose meaning is to write `v` to Rx and move on leaves `v` there and everything else as it was. -/
theorem result_of_setReg {i : Instr} {s : State} {x : RegNum} {v : Byte} (h : exec i s = .next ((s.setReg x v).advance 2)) :
    ∃ t, exec i s = .next t ∧ t.reg x = v ∧ s.KeepsRegsBut t [x] ∧ t.flags = s.flags ∧ s.KeepsMem t ∧ s.KeepsMode t ∧
      t.pc = s.pc + 2#16 := by
  obtain ⟨hregs, hmem, hmode, hpc⟩ := s.onlyWrites_setReg x v
  exact ⟨_, h, by simp, hregs, rfl, hmem, hmode, hpc⟩

/-- Writing two registers and moving on changes nothing else. -/
theorem State.onlyWrites_setReg_setReg (s : State) (x y : RegNum) (v w : Byte) (k : Nat) :
    s.OnlyWrites (((s.setReg x v).setReg y w).advance k) [x, y] (BitVec.ofNat 16 k) where
  regs r hr := by
    obtain ⟨hx, hy⟩ : r ≠ x ∧ r ≠ y := by simpa using hr
    rw [State.advance_reg, State.reg_setReg_other _ w hy, State.reg_setReg_other s v hx]
  mem a := by simp
  mode := ⟨rfl, rfl⟩
  pc := rfl

/-- After an exchange Rx holds the old Ry; on one register the second write puts its own value back (R76). -/
theorem State.reg_exchange_left (s : State) (x y : RegNum) : ((s.setReg x (s.reg y)).setReg y (s.reg x)).reg x = s.reg y := by
  by_cases hxy : x = y
  · subst hxy
    rw [State.reg_setReg_same]
  · rw [State.reg_setReg_other _ _ hxy, State.reg_setReg_same]

/-! ### The results -/

/-- Settles O26: each of the three loads writes one register; the nibbles of the byte it writes are `loadLowNibble_toNat` and
`loadHighNibble_toNat`. -/
theorem loadImmediateResults : Obligations.LoadImmediateResults := by
  intro s
  refine ⟨fun x imm => ⟨decodesTo_of_opcode_ne rfl rfl (by decide), ?_⟩,
    fun x imm => ⟨decodesTo_of_opcode_ne rfl rfl (by decide), ?_⟩,
    fun imm => ⟨decodesTo_of_opcode_ne rfl rfl (by decide), result_of_setReg rfl⟩⟩
  · obtain ⟨t, hexec, hx, hframe⟩ := result_of_setReg (i := .ldlo x imm) (s := s) rfl
    exact ⟨t, hexec, by rw [hx, loadLowNibble_toNat], hframe⟩
  · obtain ⟨t, hexec, hx, hframe⟩ := result_of_setReg (i := .ldhi x imm) (s := s) rfl
    exact ⟨t, hexec, by rw [hx, loadHighNibble_toNat], hframe⟩

/-- Settles O28: MOV writes one register, and SWAP two, its first write being overwritten where both are one register. -/
theorem moveAndSwapResults : Obligations.MoveAndSwapResults := by
  intro x y s
  refine ⟨⟨decodesTo_of_opcode_ne rfl rfl (by decide), result_of_setReg rfl⟩,
    decodesTo_of_opcode_ne rfl rfl (by decide), ?_⟩
  obtain ⟨hregs, hmem, hmode, hpc⟩ := s.onlyWrites_setReg_setReg x y (s.reg y) (s.reg x) 2
  exact ⟨_, rfl, s.reg_exchange_left x y, State.reg_setReg_same _ y _, hregs, rfl, hmem, hmode, hpc⟩

end Sys2Proof.Machine
end

section
/-! Memory access (spec/41_memory_access.md): the address that the operands give, and what the write of one byte there leaves. -/

namespace Sys2Proof.Machine

/-- Ry is the high byte of the address and the next register, modulo 16, the low byte (R2, R80). -/
theorem State.pairAddress_toNat (s : State) (y : RegNum) :
    (s.pairAddress y).toNat = 256 * (s.reg y).toNat + (s.reg (y + 1#4)).toNat :=
  joinBytes_toNat (s.reg y) (s.reg (y + 1#4))

/-- The write of one byte leaves every other address as it was (R31). -/
theorem State.keepsMemBut_memWrite (s : State) (a : Addr) (v : Byte) : s.KeepsMemBut (s.memWrite a v) [a] := by
  intro d hd
  exact State.memByte_memWrite_other s v (List.ne_of_not_mem_cons hd)

/-- An instruction whose meaning is to store `v` at `a` and move on leaves `v` there and everything else as it was. -/
theorem result_of_memWrite {i : Instr} {s : State} {a : Addr} {v : Byte} (h : exec i s = .next ((s.memWrite a v).advance 2)) :
    ∃ t, exec i s = .next t ∧ t.memByte a = some v ∧ s.KeepsMemBut t [a] ∧ s.KeepsRegsBut t [] ∧ t.flags = s.flags ∧
      s.KeepsMode t ∧ t.pc = s.pc + 2#16 :=
  ⟨_, h, State.memByte_memWrite_same s a v, s.keepsMemBut_memWrite a v, fun _ _ => rfl, rfl, ⟨rfl, rfl⟩, rfl⟩

/-- Settles O31: each of the two stores writes one byte, at the address whose number is `State.pairAddress_toNat` or
`zeroPageAddress_toNat`. -/
theorem storeResults : Obligations.StoreResults := by
  intro s
  constructor
  case left =>
    intro x y
    exact ⟨decodesTo_of_opcode_ne rfl rfl (by decide), s.pairAddress_toNat y, result_of_memWrite rfl⟩
  case right =>
    intro b
    exact ⟨decodesTo_of_opcode_ne rfl rfl (by decide), zeroPageAddress_toNat b, result_of_memWrite rfl⟩

end Sys2Proof.Machine
end

section
/-! Arithmetic (spec/42_arithmetic.md): what an 8-bit result leaves, the numbers of INC, DEC and a cut difference, and CMP's flags as
those of SUB. -/

namespace Sys2Proof.Machine

/-! ### The state after an 8-bit result -/

/-- An instruction whose meaning is a `writeResult` leaves the byte in Rx, the carry in C and Z and N of the byte, and everything else
as it was; `n` and `p` say what the byte and the carry stand for. -/
theorem result_of_writeResult {i : Instr} {s : State} {x : RegNum} {r : Byte} {c : Bool} {n : Nat} {p : Prop}
    (h : exec i s = s.writeResult x r c) (hr : r.toNat = n) (hc : c = true ↔ p) :
    ∃ t, exec i s = .next t ∧ (t.reg x).toNat = n ∧ (t.flags.c = true ↔ p) ∧ t.flags.DescribeZN (t.reg x) ∧
      s.KeepsRegsBut t [x] ∧ s.KeepsMem t ∧ s.KeepsMode t ∧ t.pc = s.pc + 2#16 := by
  obtain ⟨hregs, hmem, hmode, hpc⟩ := s.onlyWrites_afterResult x r c
  have hx : (s.afterResult x r c).reg x = r := s.afterResult_reg_same x r c
  have hzn : (s.afterResult x r c).flags.DescribeZN ((s.afterResult x r c).reg x) := by
    rw [hx]
    exact resultFlags_describeZN r c
  exact ⟨s.afterResult x r c, h, (congrArg BitVec.toNat hx).trans hr, hc, hzn, hregs, hmem, hmode, hpc⟩

/-! ### INC and DEC -/

/-- One less is 255 more, modulo 256 (R96). -/
theorem sub_one_toNat (a : Byte) : (a - 1#8).toNat = (a.toNat + 255) % 256 := by
  rw [BitVec.toNat_sub, Nat.add_comm]
  rfl

/-- The test on numbers by which INC and DEC find the wrap, and CMP equality (R95 to R97). -/
theorem byte_beq_eq_true_iff (a b : Byte) : (a == b) = true ↔ a.toNat = b.toNat := by
  rw [beq_iff_eq, BitVec.toNat_inj]

/-- Settles O35: both are a `writeResult` whatever the ignored nibble, and C compares the old byte with the one that wraps. -/
theorem incrementAndDecrementResults : Obligations.IncrementAndDecrementResults := by
  intro x u s
  constructor
  case left =>
    exact ⟨decodesTo_of_opcode_ne rfl rfl (by decide),
      result_of_writeResult rfl (BitVec.toNat_add (s.reg x) 1#8) (byte_beq_eq_true_iff (s.reg x) 0xFF#8)⟩
  case right =>
    exact ⟨decodesTo_of_opcode_ne rfl rfl (by decide),
      result_of_writeResult rfl (sub_one_toNat (s.reg x)) (byte_beq_eq_true_iff (s.reg x) 0#8)⟩

/-! ### CMP -/

/-- The byte of a difference is the difference modulo 256 (R90, R93). -/
theorem diffByte_toNat (d : Int) : ((diffByte d).toNat : Int) = d % 256 := by
  rw [diffByte, BitVec.toNat_ofInt, Int.toNat_of_nonneg (Int.emod_nonneg d (by decide))]
  rfl

/-- Without a borrow the exact difference is that of the two numbers (R93). -/
theorem exactDiff_false (a b : Byte) : exactDiff a b false = (a.toNat : Int) - b.toNat := Int.sub_zero _

/-- The cut difference of two bytes is zero exactly when they are equal: between bytes a difference is less than 256 either way. -/
theorem zeroFlag_diffByte (a b : Byte) : zeroFlag (diffByte (exactDiff a b false)) = (a == b) := by
  have ha := a.isLt
  have hb := b.isLt
  have hdiff := diffByte_toNat (exactDiff a b false)
  rw [exactDiff_false] at hdiff ⊢
  rw [Bool.eq_iff_iff, zeroFlag_eq_true_iff, byte_beq_eq_true_iff]
  omega

/-- CMP's flags are those of the result that SUB would write (R97). -/
theorem compareFlags_eq_resultFlags (a b : Byte) :
    compareFlags a b = resultFlags (diffByte (exactDiff a b false)) (diffBorrow a b false) := by
  rw [resultFlags, zeroFlag_diffByte]
  rfl

/-- N after CMP is bit 7 of the difference modulo 256 (R97). -/
theorem compareFlags_n_eq_true_iff (a b : Byte) :
    (compareFlags a b).n = true ↔ 128 ≤ ((a.toNat : Int) - b.toNat) % 256 := by
  rw [← exactDiff_false, ← diffByte_toNat]
  exact (negFlag_eq_true_iff _).trans (Int.ofNat_le (m := 128)).symm

/-- The flags that SUB leaves (R93). -/
theorem execSub_flags {x y : RegNum} {s t : State} (h : execSub x y s = .next t) :
    t.flags = resultFlags (diffByte (exactDiff (s.reg x) (s.reg y) false)) (diffBorrow (s.reg x) (s.reg y) false) := by
  rw [execSub, State.subInto_eq] at h
  obtain rfl := State.writeResult_next.mp h
  rfl

/-- Settles O36: CMP writes the flags alone, and they are those of SUB by `compareFlags_eq_resultFlags`. -/
theorem compareResult : Obligations.CompareResult := by
  intro x y s
  obtain ⟨hregs, hmem, hmode, hpc⟩ := s.onlyWrites_setFlags (compareFlags (s.reg x) (s.reg y))
  refine ⟨decodesTo_of_opcode_ne rfl rfl (by decide), _, rfl, beq_iff_eq, decide_eq_true_iff,
    compareFlags_n_eq_true_iff (s.reg x) (s.reg y), fun u hsub => ?_, hregs, hmem, hmode, hpc⟩
  rw [execSub_flags hsub]
  exact compareFlags_eq_resultFlags (s.reg x) (s.reg y)

end Sys2Proof.Machine
end

section
/-! Logical operations (spec/43_logical.md): results and flags bit by bit, the complement, and the two rotates as numbers of nine
bits. -/

namespace Sys2Proof.Machine

/-! ### The flags and the frame of an 8-bit result -/

/-- After a `writeResult` Z and N describe Rx, and nothing but Rx, the flags and `pc` has changed (R110). -/
theorem State.afterResult_describeZN_frame (s : State) (x : RegNum) (r : Byte) (c : Bool) :
    (s.afterResult x r c).flags.DescribeZN ((s.afterResult x r c).reg x) ∧ s.KeepsRegsBut (s.afterResult x r c) [x] ∧
      s.KeepsMem (s.afterResult x r c) ∧ s.KeepsMode (s.afterResult x r c) ∧ (s.afterResult x r c).pc = s.pc + 2#16 := by
  obtain ⟨hregs, hmem, hmode, hpc⟩ := s.onlyWrites_afterResult x r c
  refine ⟨?_, hregs, hmem, hmode, hpc⟩
  rw [State.afterResult_reg_same]
  exact resultFlags_describeZN r c

/-! ### AND, OR and XOR -/

/-- A result that clears C and whose bits are `f` leaves those bits in Rx. -/
theorem result_of_bits {i : Instr} {s : State} {x : RegNum} {r : Byte} {f : Nat → Bool}
    (h : exec i s = s.writeResult x r false) (hr : ∀ k, r.getLsbD k = f k) :
    ∃ t, exec i s = .next t ∧ (∀ k, (t.reg x).getLsbD k = f k) ∧ t.flags.c = false ∧ t.flags.DescribeZN (t.reg x) ∧
      s.KeepsRegsBut t [x] ∧ s.KeepsMem t ∧ s.KeepsMode t ∧ t.pc = s.pc + 2#16 := by
  refine ⟨s.afterResult x r false, h, fun k => ?_, rfl, s.afterResult_describeZN_frame x r false⟩
  rw [State.afterResult_reg_same, hr]

/-- The Z flag of an exclusive OR says that the operands are equal (R113). -/
theorem zeroFlag_xor_eq_true_iff (a b : Byte) : zeroFlag (a ^^^ b) = true ↔ a = b := by
  rw [zeroFlag, beq_iff_eq, BitVec.xor_eq_zero_iff]

/-- Settles O42: the three are a `writeResult` that clears C, and the library gives the bits of each operation. -/
theorem bitwiseResults : Obligations.BitwiseResults := by
  intro x y s
  refine ⟨⟨decodesTo_of_opcode_ne rfl rfl (by decide), ?and⟩, ⟨decodesTo_of_opcode_ne rfl rfl (by decide), ?or⟩,
    decodesTo_of_opcode_ne rfl rfl (by decide), ?xor⟩
  case and => exact result_of_bits rfl fun _ => BitVec.getLsbD_and
  case or => exact result_of_bits rfl fun _ => BitVec.getLsbD_or
  case xor =>
    refine ⟨s.afterResult x (s.reg x ^^^ s.reg y) false, rfl, fun k => ?_, zeroFlag_xor_eq_true_iff (s.reg x) (s.reg y), rfl,
      s.afterResult_describeZN_frame x _ false⟩
    rw [State.afterResult_reg_same, BitVec.getLsbD_xor]

/-! ### NOT -/

/-- The complement of a byte is 255 less the byte (R114). -/
theorem byte_not_toNat (a : Byte) : (~~~a).toNat = 255 - a.toNat := BitVec.toNat_not

/-- NOT of `$FF`, and of no other byte, sets Z (R114, conflict C2). -/
theorem zeroFlag_not_eq_true_iff (a : Byte) : zeroFlag (~~~a) = true ↔ a = 0xFF#8 := by
  rw [zeroFlag_eq_true_iff, byte_not_toNat, ← BitVec.toNat_inj]
  have ha := a.isLt
  have hff : (0xFF#8).toNat = 255 := rfl
  omega

/-- N after NOT is the complement of the old bit 7 (R114). -/
theorem negFlag_not_eq_true_iff (a : Byte) : negFlag (~~~a) = true ↔ a.toNat < 128 := by
  rw [negFlag_eq_true_iff, byte_not_toNat]
  omega

/-- NOT is a `writeResult` of the complement, whatever the ignored nibble (R58, R114). -/
theorem exec_not (x : RegNum) (u : Nibble) (s : State) : exec (.not x u) s = .next (s.afterResult x (~~~(s.reg x)) false) := rfl

/-- Settles O43: Rx and the flags are those of the complement, and a second complement undoes the first. -/
theorem complementResult : Obligations.ComplementResult := by
  intro x u v s
  obtain ⟨hzn, hregs, hmem, hmode, hpc⟩ := s.afterResult_describeZN_frame x (~~~(s.reg x)) false
  refine ⟨decodesTo_of_opcode_ne rfl rfl (by decide), _, exec_not x u s, ?number, zeroFlag_not_eq_true_iff (s.reg x),
    negFlag_not_eq_true_iff (s.reg x), rfl, hzn, hregs, hmem, hmode, hpc, _, exec_not x v _, ?twice⟩
  case number => rw [State.afterResult_reg_same, byte_not_toNat]
  case twice => rw [State.afterResult_reg_same, State.afterResult_reg_same, BitVec.not_not]

/-! ### SHL and SHR -/

/-- One bit string before another, as numbers (R3). -/
theorem append_toNat {m n : Nat} (h : BitVec m) (l : BitVec n) : (h ++ l).toNat = 2 ^ n * h.toNat + l.toNat := by
  rw [BitVec.toNat_append, ← Nat.shiftLeft_add_eq_or_of_lt l.isLt, Nat.shiftLeft_eq, Nat.mul_comm]

/-- The bit shifted out and the byte of a left rotate are the nine bits of twice the byte and the bit shifted in (R115). -/
theorem rotateLeftByte_toNat (a : Byte) (c : Bool) :
    256 * (a.getLsbD 7).toNat + (rotateLeftByte a c).toNat = 2 * a.toNat + c.toNat := by
  have hout : (a.getLsbD 7).toNat = a.toNat / 128 % 2 := Nat.toNat_testBit a.toNat 7
  have hkept : (a.extractLsb' 0 7).toNat = a.toNat % 128 := BitVec.extractLsb'_toNat 0 7 a
  have hbyte : (rotateLeftByte a c).toNat = 2 * (a.toNat % 128) + c.toNat := by
    rw [rotateLeftByte, append_toNat, hkept, BitVec.toNat_ofBool, Nat.pow_one]
  omega

/-- The byte and the bit shifted out of a right rotate are the nine bits of the bit shifted in and the byte (R116). -/
theorem rotateRightByte_toNat (a : Byte) (c : Bool) :
    2 * (rotateRightByte a c).toNat + (a.getLsbD 0).toNat = 256 * c.toNat + a.toNat := by
  have hout : (a.getLsbD 0).toNat = a.toNat / 1 % 2 := Nat.toNat_testBit a.toNat 0
  have hkept : (a.extractLsb' 1 7).toNat = a.toNat / 2 % 128 := BitVec.extractLsb'_toNat 1 7 a
  have hbyte : (rotateRightByte a c).toNat = 2 ^ 7 * c.toNat + a.toNat / 2 % 128 := by
    rw [rotateRightByte, append_toNat, hkept, BitVec.toNat_ofBool]
  omega

/-- The bit that a right rotate shifts in is bit 7 of its byte (R116). -/
theorem negFlag_rotateRightByte (a : Byte) (c : Bool) : negFlag (rotateRightByte a c) = c := by
  rw [negFlag, rotateRightByte, BitVec.getLsbD_append]
  simp

/-- Settles O44: both are a `writeResult` whatever the ignored nibble, of the byte and carry of `rotateLeftByte_toNat` and
`rotateRightByte_toNat`. -/
theorem rotateResults : Obligations.RotateResults := by
  intro x u s
  refine ⟨⟨decodesTo_of_opcode_ne rfl rfl (by decide), ?shl⟩, decodesTo_of_opcode_ne rfl rfl (by decide), ?shr⟩
  case shl =>
    refine ⟨s.afterResult x (rotateLeftByte (s.reg x) s.flags.c) ((s.reg x).getLsbD 7), rfl, ?_,
      s.afterResult_describeZN_frame x _ _⟩
    rw [State.afterResult_reg_same]
    exact rotateLeftByte_toNat (s.reg x) s.flags.c
  case shr =>
    refine ⟨s.afterResult x (rotateRightByte (s.reg x) s.flags.c) ((s.reg x).getLsbD 0), rfl, ?_,
      negFlag_rotateRightByte (s.reg x) s.flags.c, s.afterResult_describeZN_frame x _ _⟩
    rw [State.afterResult_reg_same]
    exact rotateRightByte_toNat (s.reg x) s.flags.c

/-! ### TEST -/

/-- A byte has the Z flag exactly when all its eight bits are clear. -/
theorem zeroFlag_eq_true_iff_bits (r : Byte) : zeroFlag r = true ↔ ∀ k, k < 8 → r.getLsbD k = false := by
  rw [zeroFlag, beq_iff_eq]
  constructor
  · rintro rfl k -
    exact BitVec.getLsbD_zero
  · intro hbits
    exact BitVec.eq_of_getLsbD_eq fun k hk => (hbits k hk).trans BitVec.getLsbD_zero.symm

/-- The Z flag of an AND says that no bit is set in both operands (R117). -/
theorem zeroFlag_and_eq_true_iff (a b : Byte) :
    zeroFlag (a &&& b) = true ↔ ∀ k, k < 8 → (a.getLsbD k && b.getLsbD k) = false := by
  simp only [zeroFlag_eq_true_iff_bits, BitVec.getLsbD_and]

/-- Settles O46: TEST writes the flags alone, and `testFlags` keeps C. -/
theorem testResult : Obligations.TestResult := by
  intro x y s
  obtain ⟨hregs, hmem, hmode, hpc⟩ := s.onlyWrites_setFlags (testFlags s.flags (s.reg x &&& s.reg y))
  exact ⟨decodesTo_of_opcode_ne rfl rfl (by decide), _, rfl, zeroFlag_and_eq_true_iff (s.reg x) (s.reg y), BitVec.getLsbD_and,
    rfl, hregs, hmem, hmode, hpc⟩

end Sys2Proof.Machine
end

section
/-! Control flow (spec/44_control_flow.md, 10_state.md R18): jump targets as numbers, the instructions that go on to the next one,
and what a pushed return address leaves. -/

namespace Sys2Proof.Machine

/-! ### The program counter as a number -/

/-- From `s` to `t` the program counter moves by `d` bytes, modulo 65536 (R4, D1). -/
def State.MovesPcBy (s t : State) (d : Int) : Prop := (t.pc.toNat : Int) = (s.pc.toNat + d) % 65536

theorem State.movesPcBy_of_pc_eq_add {s t : State} {k : Nat} (h : t.pc = s.pc + BitVec.ofNat 16 k) : s.MovesPcBy t k := by
  rw [State.MovesPcBy, h, BitVec.toNat_add, BitVec.toNat_ofNat]
  omega

/-- A sign-extended offset, as an address, is the signed offset modulo 65536 (R53). -/
theorem signExtend_toNat (off : Byte) : ((off.signExtend 16).toNat : Int) = off.toInt % 65536 := by
  rw [BitVec.signExtend, BitVec.toNat_ofInt, Int.toNat_of_nonneg (Int.emod_nonneg _ (by decide))]
  rfl

theorem relativeTarget_toNat (a : Addr) (off : Byte) :
    ((relativeTarget a off).toNat : Int) = (a.toNat + 2 + off.toInt) % 65536 := by
  have hoff := signExtend_toNat off
  have htwo : (2#16).toNat = 2 := rfl
  rw [relativeTarget, BitVec.toNat_add, BitVec.toNat_add, htwo]
  omega

theorem State.movesPcBy_relativeTarget {s t : State} {off : Byte} (h : t.pc = relativeTarget s.pc off) :
    s.MovesPcBy t (2 + off.toInt) := by
  rw [State.MovesPcBy, h, relativeTarget_toNat, Int.add_assoc]

/-- A conditional jump goes to its target, or on past its two bytes (R128 to R132). -/
theorem State.jumpIf_movesPcBy {s t : State} {taken : Bool} {off : Byte} (h : s.jumpIf taken off = .next t) :
    s.MovesPcBy t (2 + if taken then off.toInt else 0) := by
  obtain rfl := State.jumpIf_next.mp h
  cases taken with
  | true => exact State.movesPcBy_relativeTarget (off := off) rfl
  | false => exact State.movesPcBy_of_pc_eq_add (k := 2) rfl

/-- A jump on a clear flag, with its two outcomes by the flag itself (R129, R131). -/
theorem State.jumpIf_not_movesPcBy {s t : State} {flag : Bool} {off : Byte} (h : s.jumpIf (!flag) off = .next t) :
    s.MovesPcBy t (2 + if flag then 0 else off.toInt) := by
  cases flag with
  | true => exact State.jumpIf_movesPcBy (taken := false) h
  | false => exact State.jumpIf_movesPcBy (taken := true) h

/-! ### The instructions that go on to the next one -/

/-- DIV completes when it has a quotient and a remainder to write (R99). -/
theorem execDiv_next {x y : RegNum} {s t : State} :
    execDiv x y s = .next t ↔ ∃ q m, divideBytes s.cfg.div0 (s.reg x) (s.reg y) = some (q, m) ∧
      t = (((s.setReg x q).setReg (nextReg x) m).setFlags (resultFlags q false)).advance 2 := by
  unfold execDiv
  split
  · next q m hqm => simp [hqm, eq_comm]
  · next hnone => simp [hnone, raise]

/-- An instruction that is neither a control transfer nor HLT moves `pc` past its own bytes (R18, R20). -/
theorem exec_pc_of_not_isTransfer {i : Instr} {s t : State} (h : exec i s = .next t) (htransfer : i.isTransfer = false)
    (hhlt : ∀ u, i ≠ .hlt u) : t.pc = s.pc + BitVec.ofNat 16 (encode i).length := by
  cases i with
  | nop => obtain ⟨-, rfl⟩ := execNop_next.mp h; rfl
  | ldlo | ldhi | ldi0 | ldi16 | mov | swap | stor | storz | add | adc | sub | sbc | inc | dec | cmp | mul | and | or | xor | not
  | shl | shr | test => obtain rfl := Host.Outcome.next.inj h; rfl
  | load | loadz => obtain ⟨v, -, rfl⟩ := State.loadInto_next.mp h; rfl
  | div => obtain ⟨q, m, -, rfl⟩ := execDiv_next.mp h; rfl
  | push x y =>
    obtain rfl := Host.Outcome.next.inj h
    obtain ⟨hpc, -⟩ := State.pushRegs_frame (regRange x y) s
    rw [State.advance_pc, hpc]
    rfl
  | pop x y =>
    obtain ⟨u, hu, rfl⟩ := execPop_next.mp h
    obtain ⟨hpc, -⟩ := State.popRegs_frame hu
    rw [State.advance_pc, hpc]
    rfl
  | hlt u => exact absurd rfl (hhlt u)
  | jmp | jmpl | jz | jnz | jc | jnc | jn | call | calll | ret => cases htransfer

/-- Settles O25: an instruction that is no transfer moves `pc` past its own bytes; HLT leaves it; each transfer has its target. -/
theorem programCounterAfterEachInstruction : Obligations.ProgramCounterAfterEachInstruction := by
  intro i s t h
  cases i with
  | jmp => obtain rfl := Host.Outcome.next.inj h; exact State.movesPcBy_relativeTarget rfl
  | call => obtain rfl := Host.Outcome.next.inj h; exact State.movesPcBy_relativeTarget rfl
  | jz | jc | jn => exact State.jumpIf_movesPcBy h
  | jnz | jnc => exact State.jumpIf_not_movesPcBy h
  | jmpl x y => obtain rfl := Host.Outcome.next.inj h; exact joinBytes_toNat (s.reg x) (s.reg y)
  | calll x y => obtain rfl := Host.Outcome.next.inj h; exact joinBytes_toNat _ _
  | ret =>
    obtain ⟨-, hpop⟩ := execRet_next.mp h
    obtain ⟨hi, lo, hhi, hlo, rfl⟩ := State.popReturn_next.mp hpop
    exact ⟨hi, lo, hhi, hlo, joinBytes_toNat hi lo⟩
  | hlt => obtain ⟨-, rfl⟩ := execHlt_next.mp h; rfl
  | ldi16 =>
    have hpc := exec_pc_of_not_isTransfer h rfl nofun
    exact State.movesPcBy_of_pc_eq_add (k := 4) hpc
  | _ =>
    have hpc := exec_pc_of_not_isTransfer h rfl nofun
    exact State.movesPcBy_of_pc_eq_add (k := 2) hpc

/-! ### The jumps -/

/-- Writing `pc` changes nothing else. -/
theorem State.setPc_frame (s : State) (a : Addr) :
    s.KeepsRegsBut (s.setPc a) [] ∧ (s.setPc a).flags = s.flags ∧ s.KeepsMem (s.setPc a) ∧ s.KeepsMode (s.setPc a) :=
  ⟨fun _ _ => rfl, rfl, fun _ => rfl, rfl, rfl⟩

/-- Settles O47: both jumps write `pc` alone, with the target of `relativeTarget_toNat` or `joinBytes_toNat`. -/
theorem jumpResults : Obligations.JumpResults := by
  intro s
  constructor
  case left =>
    intro off
    exact ⟨decodesTo_of_opcode_ne rfl rfl (by decide), _, rfl, relativeTarget_toNat s.pc off, s.setPc_frame _⟩
  case right =>
    intro x y
    exact ⟨decodesTo_of_opcode_ne rfl rfl (by decide), _, rfl, joinBytes_toNat (s.reg x) (s.reg y), s.setPc_frame _⟩

/-- An instruction whose meaning is a `jumpIf` completes with `pc` at its target or past its two bytes, and everything else as it
was (R125). -/
theorem result_of_jumpIf {i : Instr} {s : State} {taken : Bool} {off : Byte} (h : exec i s = s.jumpIf taken off) :
    ∃ t, exec i s = .next t ∧ (t.pc.toNat : Int) = (s.pc.toNat + 2 + if taken then off.toInt else 0) % 65536 ∧
      s.KeepsRegsBut t [] ∧ t.flags = s.flags ∧ s.KeepsMem t ∧ s.KeepsMode t := by
  have hjump := State.jumpIf_next (s := s) (cond := taken) (off := off).mpr rfl
  refine ⟨_, h.trans hjump, ?_, s.setPc_frame _⟩
  rw [Int.add_assoc]
  exact State.jumpIf_movesPcBy hjump

/-- Settles O48: each of the five is a `jumpIf` on its flag. -/
theorem conditionalJumpResults : Obligations.ConditionalJumpResults := by
  intro off s
  exact ⟨⟨decodesTo_of_opcode_ne rfl rfl (by decide), result_of_jumpIf rfl⟩,
    ⟨decodesTo_of_opcode_ne rfl rfl (by decide), result_of_jumpIf rfl⟩,
    ⟨decodesTo_of_opcode_ne rfl rfl (by decide), result_of_jumpIf rfl⟩,
    ⟨decodesTo_of_opcode_ne rfl rfl (by decide), result_of_jumpIf rfl⟩,
    ⟨decodesTo_of_opcode_ne rfl rfl (by decide), result_of_jumpIf rfl⟩⟩

/-! ### The pushed return address -/

/-- The byte after the new top of the stack is the one before the old top, modulo 65536 (R4). -/
theorem addr_sub_two_add_one (a : Addr) : a - 2#16 + 1#16 = a - 1#16 := by
  bv_omega

/-- The high byte of the return address lies at the lower of the two addresses (R38, R133). -/
theorem State.pushReturn_memByte_high (s : State) (ret : Addr) :
    (s.pushReturn ret).memByte (s.sp - 2#16) = some (highByte ret) := by
  rw [State.pushReturn_memByte, if_neg (addr_succ_ne _).symm, if_pos rfl]

theorem State.pushReturn_memByte_low (s : State) (ret : Addr) :
    (s.pushReturn ret).memByte (s.sp - 1#16) = some (lowByte ret) := by
  rw [State.pushReturn_memByte, addr_sub_two_add_one, if_pos rfl]

/-- A pushed return address changes no byte of memory but its own two. -/
theorem State.keepsMemBut_pushReturn (s : State) (ret : Addr) :
    s.KeepsMemBut (s.pushReturn ret) [s.sp - 2#16, s.sp - 1#16] := by
  intro a ha
  obtain ⟨hhigh, hlow⟩ : a ≠ s.sp - 2#16 ∧ a ≠ s.sp - 1#16 := by simpa using ha
  rw [State.pushReturn_memByte, addr_sub_two_add_one, if_neg hlow, if_neg hhigh]

/-- Writing SP changes no register but R14 and R15. -/
theorem State.keepsRegsBut_setSp (s : State) (a : Addr) : s.KeepsRegsBut (s.setSp a) [14#4, 15#4] := by
  intro r hr
  obtain ⟨h14, h15⟩ : r ≠ 14#4 ∧ r ≠ 15#4 := by simpa using hr
  rw [State.setSp_reg, if_neg h14, if_neg h15]

/-- Settles O49: CALL pushes the return address and then writes `pc`, which keeps what was pushed. -/
theorem callResult : Obligations.CallResult := by
  intro off s
  let ret : Addr := s.pc + 2#16
  exact ⟨decodesTo_of_opcode_ne rfl rfl (by decide), _, rfl, s.pushReturn_sp ret, s.pushReturn_memByte_high ret,
    s.pushReturn_memByte_low ret, relativeTarget_toNat s.pc off, s.keepsMemBut_pushReturn ret, s.keepsRegsBut_setSp _, rfl, rfl,
    rfl⟩

end Sys2Proof.Machine
end

section
/-! The stack (spec/45_stack.md): the members of PUSH and POP's register range by their place in it. -/

namespace Sys2Proof.Machine

/-! ### The register range -/

@[simp] theorem length_regRange (x y : RegNum) : (regRange x y).length = (y - x).toNat + 1 := by
  rw [regRange, List.length_map, List.length_range]

/-- The k-th register of the range is Rx + k modulo 16, for as many k as the range has members (R145). -/
theorem regRange_getElem?_eq_some {x y r : RegNum} {k : Nat} :
    (regRange x y)[k]? = some r ↔ k ≤ (y - x).toNat ∧ x + BitVec.ofNat 4 k = r := by
  simp [regRange, List.getElem?_eq_some_iff]

/-- Fewer than 16 steps of one from a register never come back to the same register. -/
theorem regNum_add_ofNat_inj {x : RegNum} {j k : Nat} (hj : j < 16) (hk : k < 16)
    (h : x + BitVec.ofNat 4 j = x + BitVec.ofNat 4 k) : j = k := by
  have hnum : j % 16 = k % 16 := congrArg BitVec.toNat ((BitVec.add_right_inj x).mp h)
  rwa [Nat.mod_eq_of_lt hj, Nat.mod_eq_of_lt hk] at hnum

theorem regRange_head? (x y : RegNum) : (regRange x y).head? = some x := by
  rw [List.head?_eq_getElem?, regRange_getElem?_eq_some]
  exact ⟨Nat.zero_le _, BitVec.add_zero x⟩

/-- The range ends at Ry: its last place is `y - x` (R145). -/
theorem regRange_getLast? (x y : RegNum) : (regRange x y).getLast? = some y := by
  rw [List.getLast?_eq_getElem?, length_regRange, Nat.add_sub_cancel, regRange_getElem?_eq_some, BitVec.ofNat_toNat,
    BitVec.setWidth_eq]
  exact ⟨le_rfl, by bv_omega⟩

/-- The range has at most 16 members, so its count modulo 16 repeats none. -/
theorem regRange_nodup (x y : RegNum) : (regRange x y).Nodup := by
  have hsize : (y - x).toNat < 16 := (y - x).isLt
  refine List.nodup_range.map_on fun j hj k hk h => ?_
  rw [List.mem_range] at hj hk
  exact regNum_add_ofNat_inj (by omega) (by omega) h

/-- Neighbours in the range differ by one modulo 16 (R145). -/
theorem regRange_succ_toNat {x y r q : RegNum} {k : Nat} (hr : (regRange x y)[k]? = some r)
    (hq : (regRange x y)[k + 1]? = some q) : q.toNat = (r.toNat + 1) % 16 := by
  obtain ⟨-, rfl⟩ := regRange_getElem?_eq_some.mp hr
  obtain ⟨-, rfl⟩ := regRange_getElem?_eq_some.mp hq
  simp only [BitVec.toNat_add, BitVec.toNat_ofNat]
  omega

/-- The number of members counts in integers, where `y` may be below `x` (R145). -/
theorem length_regRange_eq_emod (x y : RegNum) :
    ((regRange x y).length : Int) = ((y.toNat : Int) - x.toNat) % 16 + 1 := by
  have hx : x.toNat < 16 := x.isLt
  rw [length_regRange, BitVec.toNat_sub]
  omega

/-- Settles O53: the place of a register in the range is its distance from Rx, by `regRange_getElem?_eq_some`. -/
theorem registerRangeCountsUp : Obligations.RegisterRangeCountsUp := fun x y =>
  ⟨length_regRange_eq_emod x y, regRange_head? x y, regRange_getLast? x y, regRange_nodup x y,
    fun _ _ _ hr hq => regRange_succ_toNat hr hq⟩

end Sys2Proof.Machine
end

section
/-! Encoding (spec/30_encoding.md): the encoder and the decoder undo each other, the undefined opcode bytes, and the offset byte of a
label. -/

namespace Sys2Proof.Machine

/-! ### The decoder undoes the encoder -/

/-- Settles O1: the fields read back are `decodeFields_encode`; LDI16 takes its two immediate bytes from what follows (R50). -/
theorem decodeInvertsEncode : Obligations.DecodeInvertsEncode := by
  intro i rest
  obtain ⟨hne, himm⟩ | ⟨heq, hi, lo, himm⟩ := immediateBytes_cases i
  · rw [encode, himm]
    exact decodesTo_of_opcode_ne rfl rfl hne rest
  · have hfields : decodeFields i.opcode i.operandByte hi lo = some i := decodeFields_encode i fun _ => himm
    simp only [encode, himm, List.cons_append, List.nil_append, decode, if_pos heq, hfields, decodeAnswer]

/-! ### The encoder undoes the decoder -/

/-- The bytes that the decoder reads for one instruction (R50, R52). -/
def fetchedBytes (op arg hi lo : Byte) : List Byte := if op = ldi16Opcode then [op, arg, hi, lo] else [op, arg]

theorem eq_ofNat_of_toNat_eq {op : Byte} {n : Nat} (h : op.toNat = n) : op = BitVec.ofNat 8 n := by
  rw [← h, BitVec.ofNat_toNat, BitVec.setWidth_eq]

/-- Whatever the table of R56 answers encodes to the bytes it was given, ignored bits included (log 27). -/
theorem encode_of_decodeFields {op arg hi lo : Byte} {i : Instr} (h : decodeFields op arg hi lo = some i) :
    encode i = fetchedBytes op arg hi lo := by
  unfold decodeFields at h
  split at h
  case h_41 => cases h
  all_goals
    next hop =>
    cases h
    obtain rfl := eq_ofNat_of_toNat_eq hop
    simp [encode, fetchedBytes, Instr.opcode, Instr.operandByte, Instr.immediateBytes, ldi16Opcode]

theorem decodeAnswer_ok {op : Byte} {found : Option Instr} {rest rest' : List Byte} {i : Instr}
    (h : decodeAnswer op found rest = .ok (i, rest')) : found = some i ∧ rest = rest' := by
  cases found with
  | none => cases h
  | some j => simpa [decodeAnswer] using h

/-- Settles O2: each of the decoder's two answers is the table's (R52), which `encode_of_decodeFields` encodes back. -/
theorem encodeInvertsDecode : Obligations.EncodeInvertsDecode := by
  intro bytes rest i h
  unfold decode at h
  split at h
  case h_2 => cases h
  next op arg tail =>
  split at h
  case isTrue hop =>
    split at h
    case h_2 => cases h
    obtain ⟨hfields, rfl⟩ := decodeAnswer_ok h
    rw [encode_of_decodeFields hfields, fetchedBytes, if_pos hop]
    rfl
  case isFalse hop =>
    obtain ⟨hfields, rfl⟩ := decodeAnswer_ok h
    rw [encode_of_decodeFields hfields, fetchedBytes, if_neg hop]
    rfl

/-! ### The undefined opcode bytes -/

/-- The seven ranges of opcode bytes that R56 does not list (R57). -/
def UndefinedOpcode (n : Nat) : Prop :=
  (0x01 ≤ n ∧ n ≤ 0x0F) ∨ (0x16 ≤ n ∧ n ≤ 0x1F) ∨ (0x24 ≤ n ∧ n ≤ 0x2F) ∨ (0x39 ≤ n ∧ n ≤ 0x3F) ∨ (0x47 ≤ n ∧ n ≤ 0x4F) ∨
    (0x5A ≤ n ∧ n ≤ 0x5F) ∨ (0x62 ≤ n ∧ n ≤ 0xFE)

theorem decodeFields_eq_none_iff (op arg hi lo : Byte) : decodeFields op arg hi lo = none ↔ UndefinedOpcode op.toNat := by
  have hop := op.isLt
  unfold decodeFields UndefinedOpcode
  split
  case h_41 => simp only [true_iff, imp_false] at *; omega
  all_goals
    next hn => simp [hn]

theorem decodeAnswer_illegalOpcode {op : Byte} {found : Option Instr} {rest : List Byte} :
    decodeAnswer op found rest = .error (.illegalOpcode op) ↔ found = none := by
  cases found <;> simp [decodeAnswer]

/-- With all the bytes that an instruction can have, the decoder rejects the undefined opcode bytes alone (R57). -/
theorem decode_illegalOpcode_iff (op arg hi lo : Byte) (rest : List Byte) :
    decode (op :: arg :: hi :: lo :: rest) = .error (.illegalOpcode op) ↔ UndefinedOpcode op.toNat := by
  simp only [decode]
  split <;> exact decodeAnswer_illegalOpcode.trans (decodeFields_eq_none_iff op arg _ _)

/-- A running machine stops with the fault that its fetch answers (R161). -/
theorem step_of_fetch_error {s : State} {f : Fault} (hrun : s.halted = false) (hf : s.fetch = .error f) : step s = .fault f := by
  simp [step, hrun, hf, raise]

/-- With an even `pc` and both bytes of the opcode word read, the fetch goes on to the opcode (R163). -/
theorem State.fetch_eq_decodeFetched {s : State} {op arg : Byte} (heven : isOdd s.pc = false) (hop : s.memByte s.pc = some op)
    (harg : s.memByte (s.pc + 1#16) = some arg) : s.fetch = s.decodeFetched op arg := by
  simp [State.fetch, heven, State.memRead_ok.mpr hop, State.memRead_ok.mpr harg]

/-- An opcode byte other than LDI16's that the table does not list is IllegalOpcode (R57). -/
theorem State.decodeFetched_illegalOpcode {s : State} {op arg : Byte} (hne : op ≠ ldi16Opcode)
    (hnone : decodeFields op arg 0#8 0#8 = none) : s.decodeFetched op arg = .error (.illegalOpcode s.pc op) := by
  simp [State.decodeFetched, State.fetchImmediate, hne, hnone]

theorem UndefinedOpcode.ne_ldi16Opcode {op : Byte} (h : UndefinedOpcode op.toNat) : op ≠ ldi16Opcode := by
  rintro rfl
  simp [UndefinedOpcode, ldi16Opcode] at h

/-- Settles O3: decoder and fetch both ask the table, whose gaps are `decodeFields_eq_none_iff`. -/
theorem undefinedOpcodesStopTheStep : Obligations.UndefinedOpcodesStopTheStep := by
  intro op arg
  refine ⟨decode_illegalOpcode_iff op arg, fun s hundef hrun heven hop harg => step_of_fetch_error hrun ?_⟩
  rw [State.fetch_eq_decodeFetched heven hop harg]
  exact State.decodeFetched_illegalOpcode (UndefinedOpcode.ne_ldi16Opcode hundef)
    ((decodeFields_eq_none_iff op arg _ _).mpr hundef)

/-! ### Sample words -/

/-- Settles O4: the decoder evaluated on each word. -/
theorem sampleWordsDecode : Obligations.SampleWordsDecode := by
  unfold Obligations.SampleWordsDecode
  decide

/-! ### The offset byte of a label -/

/-- A byte whose number is `d` modulo 256, `d` being in the range of a signed byte, is `d` as a signed byte. -/
theorem toInt_eq_of_emod {b : Byte} {d : Int} (hlo : -128 ≤ d) (hhi : d ≤ 127) (h : (b.toNat : Int) = d % 256) : b.toInt = d := by
  rw [BitVec.toInt_eq_toNat_cond]
  split <;> omega

/-- The offset byte holds the distance from the address after the instruction, cut to 8 bits (R62). -/
theorem labelOffset_toNat (addr label : Addr) :
    ((labelOffset addr label).toNat : Int) = ((label.toNat : Int) - addr.toNat - 2) % 256 := by
  have htwo : (2#16).toNat = 2 := rfl
  rw [labelOffset, lowByte_toNat, BitVec.toNat_sub, BitVec.toNat_add, htwo]
  omega

/-- Settles O5: the offset byte, read as a signed number, is the distance `d`, which `relativeTarget_toNat` adds back. -/
theorem labelOffsetReachesLabel : Obligations.LabelOffsetReachesLabel := by
  intro addr label d hlo hhi hlabel
  have hoff : (labelOffset addr label).toInt = d := by
    apply toInt_eq_of_emod hlo hhi
    rw [labelOffset_toNat]
    omega
  have htarget := relativeTarget_toNat addr (labelOffset addr label)
  rw [hoff, ← hlabel] at htarget
  exact BitVec.eq_of_toNat_eq (Int.ofNat_inj.mp htarget)

end Sys2Proof.Machine
end

section
/-! The step (spec/20_memory.md, 60_exceptions.md): reset, the bytes that a step runs, the order of the fetch checks, and the three
ways in which an instruction stops. -/

namespace Sys2Proof.Machine

/-! ### Reset -/

/-- Settles O6: `State.resetWith` copies its parameters and clears the latch. -/
theorem resetRunsWithItsParameters : Obligations.ResetRunsWithItsParameters := fun _ =>
  ⟨rfl, rfl, fun _ => rfl, rfl, fun _ => rfl, rfl⟩

theorem State.reset_reg (r : RegNum) : State.reset.reg r = 0#8 :=
  Vector.getElem_replicate r.isLt

/-- Settles O7: the named parameters, with sixteen equal registers and an empty memory. -/
theorem namedResetState : Obligations.NamedResetState :=
  ⟨State.reset_reg, rfl, rfl, rfl, fun _ => rfl, rfl⟩

/-- Settles O18: reset takes its memory from the image. -/
theorem resetMemoryCanonical : Obligations.ResetMemoryCanonical :=
  ⟨State.reset_mem_wf, fun _ himage => himage⟩

/-! ### The bytes at `pc` are what a step runs -/

/-- Settles O8: bytes that decode are an encoding (O2), and an encoding at `pc` is fetched as its instruction. -/
theorem stepRunsDecodedInstruction : Obligations.StepRunsDecodedInstruction := by
  intro s bytes rest i hrun heven hbytes hdecode
  rw [← encodeInvertsDecode bytes rest i hdecode] at hbytes
  obtain ⟨hencoded, -⟩ := hbytes.of_append
  exact step_of_fetch hrun (State.fetch_of_holdsBytes heven hencoded)

/-- Bytes placed from `a` upward change no address outside theirs. -/
theorem State.placeBytes_memByte_other {l : List Byte} {s : State} {a d : Addr}
    (h : ∀ k, k < l.length → d ≠ a + BitVec.ofNat 16 k) : (s.placeBytes a l).memByte d = s.memByte d := by
  induction l generalizing s a with
  | nil => rfl
  | cons v rest ih =>
    have hhead : d ≠ a := by simpa using h 0 (by simp)
    have htail : ∀ k, k < rest.length → d ≠ a + 1#16 + BitVec.ofNat 16 k := by
      intro k hk
      rw [BitVec.add_assoc, ← BitVec.ofNat_add, Nat.add_comm]
      exact h (k + 1) (by simpa using hk)
    rw [State.placeBytes, ih htail, State.memByte_memWrite_other s v hhead]

/-- No more bytes than there are addresses lie where they were placed. -/
theorem State.holdsBytes_placeBytes {l : List Byte} (s : State) (a : Addr) (hlen : l.length ≤ 65536) :
    (s.placeBytes a l).HoldsBytes a l := by
  induction l generalizing s a with
  | nil => intro k v hk; simp at hk
  | cons v rest ih =>
    rw [List.length_cons] at hlen
    intro k w hk
    cases k with
    | zero =>
      obtain rfl : v = w := by simpa using hk
      rw [State.placeBytes, BitVec.add_zero, State.placeBytes_memByte_other, State.memByte_memWrite_same]
      intro k hk
      bv_omega
    | succ k =>
      have hnext : a + BitVec.ofNat 16 (k + 1) = a + 1#16 + BitVec.ofNat 16 k := by
        rw [BitVec.add_assoc, ← BitVec.ofNat_add, Nat.add_comm]
      rw [hnext]
      exact ih (s.memWrite a v) (a + 1#16) (by omega) k w hk

/-- A word of the opcode table that decodes does so as the first of its four bytes. -/
theorem decode_of_decodeTableWord {nbits w : Nat} {i : Instr} (h : decodeTableWord nbits w = some i) :
    ∃ rest, decode (tableWordBytes nbits w) = .ok (i, rest) := by
  unfold decodeTableWord at h
  split at h
  · next j rest hdecode =>
    obtain rfl := Option.some.inj h
    exact ⟨rest, hdecode⟩
  · cases h

/-- Loading a word changes memory alone. -/
theorem State.withFetchWord_frame (s : State) (nbits w : Nat) :
    s.withFetchWord nbits w = { s with mem := (s.withFetchWord nbits w).mem } :=
  State.placeBytes_frame (tableWordBytes nbits w) s s.pc

theorem State.keepsMemBut_withFetchWord (s : State) (nbits w : Nat) :
    s.KeepsMemBut (s.withFetchWord nbits w) [s.pc, s.pc + 1#16, s.pc + 2#16, s.pc + 3#16] := by
  intro a ha
  obtain ⟨h0, h1, h2, h3⟩ : a ≠ s.pc ∧ a ≠ s.pc + 1#16 ∧ a ≠ s.pc + 2#16 ∧ a ≠ s.pc + 3#16 := by simpa using ha
  apply State.placeBytes_memByte_other
  intro k hk
  match k, hk with
  | 0, _ => rwa [BitVec.add_zero]
  | 1, _ => exact h1
  | 2, _ => exact h2
  | 3, _ => exact h3

/-- Settles O9: the placed bytes lie at `pc`, where the step runs what they decode to (O8). -/
theorem withFetchWordRunsTheWord : Obligations.WithFetchWordRunsTheWord := by
  intro s nbits w i hrun heven hword
  obtain ⟨rest, hdecode⟩ := decode_of_decodeTableWord hword
  have hframe := s.withFetchWord_frame nbits w
  have hpc : (s.withFetchWord nbits w).pc = s.pc := by rw [hframe]
  have hhalted : (s.withFetchWord nbits w).halted = s.halted := by rw [hframe]
  have hbytes : (s.withFetchWord nbits w).HoldsBytes s.pc (tableWordBytes nbits w) :=
    s.holdsBytes_placeBytes s.pc (by simp [tableWordBytes])
  refine ⟨stepRunsDecodedInstruction _ _ rest i (hhalted.trans hrun) (hpc ▸ heven) (hpc.symm ▸ hbytes) hdecode, ?_, hpc, ?_,
    ⟨hhalted, ?_⟩, s.keepsMemBut_withFetchWord nbits w⟩
  · intro r _
    rw [hframe]
    rfl
  · rw [hframe]
  · rw [hframe]

/-! ### The order of the fetch checks -/

/-- A halted machine's step answers the same state (log 9). -/
theorem step_of_halted {s : State} (h : s.halted = true) : step s = .next s := by
  simp [step, h]

/-- A byte that holds no value cannot be read (R28). -/
theorem State.memRead_of_none {s : State} {a : Addr} (h : s.memByte a = none) : s.memRead a = .error (.unwrittenRead a) :=
  State.memRead_error.mpr ⟨h, rfl⟩

theorem State.fetch_of_odd {s : State} (h : isOdd s.pc = true) : s.fetch = .error (.misalignedPC s.pc) := by
  simp [State.fetch, h]

theorem State.fetch_of_unwritten_opcode {s : State} (heven : isOdd s.pc = false) (hop : s.memByte s.pc = none) :
    s.fetch = .error (.unwrittenRead s.pc) := by
  simp [State.fetch, heven, State.memRead_of_none hop]

theorem State.fetch_of_unwritten_operand {s : State} {op : Byte} (heven : isOdd s.pc = false) (hop : s.memByte s.pc = some op)
    (harg : s.memByte (s.pc + 1#16) = none) : s.fetch = .error (.unwrittenRead (s.pc + 1#16)) := by
  simp [State.fetch, heven, State.memRead_ok.mpr hop, State.memRead_of_none harg]

/-- Of LDI16's two immediate bytes the high one is read first (log 23). -/
theorem State.decodeFetched_of_unwritten_high {s : State} (arg : Byte) (hhi : s.memByte (s.pc + 2#16) = none) :
    s.decodeFetched ldi16Opcode arg = .error (.unwrittenRead (s.pc + 2#16)) := by
  simp [State.decodeFetched, State.fetchImmediate, State.memRead_of_none hhi]

theorem State.decodeFetched_of_unwritten_low {s : State} (arg : Byte) (hhi : (s.memByte (s.pc + 2#16)).isSome = true)
    (hlo : s.memByte (s.pc + 3#16) = none) : s.decodeFetched ldi16Opcode arg = .error (.unwrittenRead (s.pc + 3#16)) := by
  obtain ⟨hi, hhi⟩ := Option.isSome_iff_exists.mp hhi
  simp [State.decodeFetched, State.fetchImmediate, State.memRead_ok.mpr hhi, State.memRead_of_none hlo]

/-- Settles O10: one lemma for each check, each with the checks before it passed. -/
theorem fetchChecksInFixedOrder : Obligations.FetchChecksInFixedOrder := by
  intro s
  refine ⟨step_of_halted, fun hrun hodd => step_of_fetch_error hrun (State.fetch_of_odd hodd), fun hrun heven =>
    ⟨fun hop => step_of_fetch_error hrun (State.fetch_of_unwritten_opcode heven hop), fun op hop =>
      ⟨fun harg => step_of_fetch_error hrun (State.fetch_of_unwritten_operand heven hop harg), fun arg harg => ?_⟩⟩⟩
  have hfetch := State.fetch_eq_decodeFetched heven hop harg
  refine ⟨fun hne hnone => ?_, ?_, ?_⟩
  · exact step_of_fetch_error hrun (hfetch.trans (State.decodeFetched_illegalOpcode hne hnone))
  · rintro rfl hhi
    exact step_of_fetch_error hrun (hfetch.trans (State.decodeFetched_of_unwritten_high arg hhi))
  · rintro rfl hhi hlo
    exact step_of_fetch_error hrun (hfetch.trans (State.decodeFetched_of_unwritten_low arg hhi hlo))

/-! ### Nothing is refused -/

theorem next_ne_refused {s : State} {r : Refusal} : (.next s : StepResult) ≠ .refused r := nofun

theorem raise_ne_refused {f : Fault} {r : Refusal} : raise f ≠ .refused r := nofun

theorem State.loadInto_ne_refused {s : State} {i : RegNum} {ea : Addr} {r : Refusal} : s.loadInto i ea ≠ .refused r := by
  unfold State.loadInto
  split
  · exact next_ne_refused
  · exact raise_ne_refused

theorem State.popReturn_ne_refused {s : State} {r : Refusal} : s.popReturn ≠ .refused r := by
  unfold State.popReturn
  split
  · exact raise_ne_refused
  · split
    · exact raise_ne_refused
    · exact next_ne_refused

/-- Every instruction has a meaning: it answers a next state or a fault. -/
theorem exec_ne_refused (i : Instr) (s : State) (r : Refusal) : exec i s ≠ .refused r := by
  cases i with
  | nop | hlt | pop | div =>
    dsimp only [exec, execNop, execHlt, execPop, execDiv]
    split <;> nofun
  | ret =>
    dsimp only [exec, execRet]
    split
    · exact raise_ne_refused
    · exact State.popReturn_ne_refused
  | load | loadz => exact State.loadInto_ne_refused
  | _ => exact next_ne_refused

/-- Settles O14: a step answers a halted state, a fault of the fetch, or an instruction's meaning. -/
theorem nothingIsRefused : Obligations.NothingIsRefused := by
  refine ⟨exec_ne_refused, fun s r => ?_⟩
  unfold step
  split
  · exact next_ne_refused
  · split
    · exact raise_ne_refused
    · exact exec_ne_refused _ s r

end Sys2Proof.Machine
end

section
/-! What every instruction and every step keeps (spec/10_state.md): which faults an instruction can raise, and the frame of each
instruction for the configuration, the latch, memory, registers, the parity of `pc` and the flags it does not read. -/

namespace Sys2Proof.Machine

/-! ### The faults of an instruction -/

theorem next_ne_fault {s : State} {f : Fault} : (.next s : StepResult) ≠ .fault f := nofun

/-- NOP stops only on a refused operand byte (R59). -/
theorem execNop_fault {u : Byte} {s : State} {f : Fault} :
    execNop u s = .fault f ↔ s.cfg.strictOperand = true ∧ u ≠ 0#8 ∧ f = .nonCanonicalOperand s.pc 0x00#8 u := by
  rw [← State.operandFault_some, execNop]
  split <;> simp_all [raise]

/-- HLT stops only on a refused operand byte (R59). -/
theorem execHlt_fault {u : Byte} {s : State} {f : Fault} :
    execHlt u s = .fault f ↔ s.cfg.strictOperand = true ∧ u ≠ 0#8 ∧ f = .nonCanonicalOperand s.pc 0xFF#8 u := by
  rw [← State.operandFault_some, execHlt]
  split <;> simp_all [raise]

/-- RET stops on a refused operand byte, and otherwise as the pop of its address does (R59, R135). -/
theorem execRet_fault {u : Byte} {s : State} {f : Fault} :
    execRet u s = .fault f ↔
      (s.cfg.strictOperand = true ∧ u ≠ 0#8 ∧ f = .nonCanonicalOperand s.pc 0x59#8 u) ∨
      ((s.cfg.strictOperand = true → u = 0#8) ∧ s.popReturn = .fault f) := by
  rw [← State.operandFault_some, ← State.operandFault_none (op := 0x59#8), execRet]
  split <;> simp_all [raise]

/-- POP stops as its loop does (R147). -/
theorem execPop_fault {x y : RegNum} {s : State} {f : Fault} :
    execPop x y s = .fault f ↔ s.popRegs (popOrderList s.cfg.popOrder (regRange x y)) = .error f := by
  unfold execPop
  split <;> simp_all [raise]

/-- DIV stops only on a zero divisor under DIV0 = fault (R99). -/
theorem execDiv_fault {x y : RegNum} {s : State} {f : Fault} :
    execDiv x y s = .fault f ↔ s.reg y = 0#8 ∧ s.cfg.div0 = .fault ∧ f = .divideByZero s.pc := by
  rw [← and_assoc, ← divideBytes_none (a := s.reg x), execDiv]
  split
  · next hqm => simp [hqm]
  · next hnone => simp [hnone, raise, eq_comm]

/-- The pop of a return address stops only on a byte that holds no value. -/
theorem State.popReturn_fault_unwritten {s : State} {f : Fault} (h : s.popReturn = .fault f) :
    ∃ a, f = .unwrittenRead a ∧ s.memByte a = none := by
  obtain ⟨hnone, hf⟩ | ⟨-, hnone, hf⟩ := State.popReturn_fault.mp h
  · exact ⟨_, hf, hnone⟩
  · exact ⟨_, hf, hnone⟩

/-- Settles O15: six instructions can stop, each as its own fault lemma says. -/
theorem instructionFaultsOnlyAsListed : Obligations.InstructionFaultsOnlyAsListed := by
  intro i s f h
  cases i with
  | load x y =>
    obtain ⟨hnone, hf⟩ := State.loadInto_fault.mp h
    exact .inl ⟨_, hf, hnone, .inl ⟨x, y, rfl⟩⟩
  | loadz b =>
    obtain ⟨hnone, hf⟩ := State.loadInto_fault.mp h
    exact .inl ⟨_, hf, hnone, .inr (.inl ⟨b, rfl⟩)⟩
  | pop x y =>
    obtain ⟨a, hnone, hf⟩ := State.popRegs_error (execPop_fault.mp h)
    exact .inl ⟨a, hf, hnone, .inr (.inr (.inr ⟨x, y, rfl⟩))⟩
  | ret u =>
    obtain ⟨hstrict, hu, hf⟩ | ⟨-, hpop⟩ := execRet_fault.mp h
    · exact .inr (.inl ⟨hstrict, u, hu, .inr (.inl ⟨rfl, hf⟩)⟩)
    · obtain ⟨a, hf, hnone⟩ := State.popReturn_fault_unwritten hpop
      exact .inl ⟨a, hf, hnone, .inr (.inr (.inl ⟨u, rfl⟩))⟩
  | nop u =>
    obtain ⟨hstrict, hu, hf⟩ := execNop_fault.mp h
    exact .inr (.inl ⟨hstrict, u, hu, .inl ⟨rfl, hf⟩⟩)
  | hlt u =>
    obtain ⟨hstrict, hu, hf⟩ := execHlt_fault.mp h
    exact .inr (.inl ⟨hstrict, u, hu, .inr (.inr ⟨rfl, hf⟩)⟩)
  | div x y =>
    obtain ⟨hzero, hdiv0, hf⟩ := execDiv_fault.mp h
    exact .inr (.inr ⟨hdiv0, x, y, rfl, hzero, hf⟩)
  | _ => exact absurd h next_ne_fault

/-! ### Memory -/

/-- An instruction that is no store leaves memory as it is (10_state.md section 1). -/
theorem exec_mem_of_not_storesMemory {i : Instr} {s t : State} (h : exec i s = .next t) (hstore : i.storesMemory = false) :
    t.mem = s.mem := by
  cases i with
  | nop => obtain ⟨-, rfl⟩ := execNop_next.mp h; rfl
  | hlt => obtain ⟨-, rfl⟩ := execHlt_next.mp h; rfl
  | load | loadz => obtain ⟨v, -, rfl⟩ := State.loadInto_next.mp h; rfl
  | div => obtain ⟨q, m, -, rfl⟩ := execDiv_next.mp h; rfl
  | jz | jnz | jc | jnc | jn => obtain rfl := State.jumpIf_next.mp h; rfl
  | ret =>
    obtain ⟨-, hpop⟩ := execRet_next.mp h
    obtain ⟨hi, lo, -, -, rfl⟩ := State.popReturn_next.mp hpop
    rfl
  | pop =>
    obtain ⟨u, hu, rfl⟩ := execPop_next.mp h
    obtain ⟨-, -, -, -, hmem⟩ := State.popRegs_frame hu
    exact hmem
  | stor | storz | call | calll | push => cases hstore
  | _ => obtain rfl := Host.Outcome.next.inj h; rfl

theorem State.keepsMem_of_mem_eq {s t : State} (h : t.mem = s.mem) : s.KeepsMem t := by
  intro a
  rw [State.memByte, State.memByte, h]

/-- Settles O23: outside the five stores the whole memory is the same data. -/
theorem memoryWrittenOnlyByStores : Obligations.MemoryWrittenOnlyByStores := fun _ _ _ h hstore =>
  State.keepsMem_of_mem_eq (exec_mem_of_not_storesMemory h hstore)

/-- From `s` to `t` memory keeps its canonical form, and no byte loses its value. -/
structure State.MemGrows (s t : State) : Prop where
  canonical : s.mem.wf = true → t.mem.wf = true
  loaded : ∀ a, (s.memByte a).isSome = true → (t.memByte a).isSome = true

theorem State.MemGrows.of_mem_eq {s t : State} (h : t.mem = s.mem) : s.MemGrows t where
  canonical hs := h ▸ hs
  loaded a ha := State.keepsMem_of_mem_eq h a ▸ ha

theorem State.MemGrows.trans {s t u : State} (h : s.MemGrows t) (h' : t.MemGrows u) : s.MemGrows u where
  canonical hs := h'.canonical (h.canonical hs)
  loaded a ha := h'.loaded a (h.loaded a ha)

/-- A store gives a byte a value and takes none (R31). -/
theorem State.memGrows_memWrite (s : State) (a : Addr) (v : Byte) : s.MemGrows (s.memWrite a v) where
  canonical := State.memWrite_wf a v
  loaded d hd := by
    rw [State.memByte_memWrite]
    split
    · rfl
    · exact hd

theorem State.memGrows_pushReturn (s : State) (ret : Addr) : s.MemGrows (s.pushReturn ret) :=
  .trans (t := s.setSp (s.sp - 2#16)) (.of_mem_eq rfl) ((State.memGrows_memWrite _ _ _).trans (State.memGrows_memWrite _ _ _))

/-- Every instruction keeps the canonical form and every value that memory holds. -/
theorem exec_memGrows {i : Instr} {s t : State} (h : exec i s = .next t) : s.MemGrows t := by
  cases hstore : i.storesMemory with
  | false => exact .of_mem_eq (exec_mem_of_not_storesMemory h hstore)
  | true =>
    cases i with
    | stor | storz => obtain rfl := Host.Outcome.next.inj h; exact .trans (s.memGrows_memWrite _ _) (.of_mem_eq rfl)
    | call | calll => obtain rfl := Host.Outcome.next.inj h; exact .trans (s.memGrows_pushReturn _) (.of_mem_eq rfl)
    | push x y =>
      obtain rfl := Host.Outcome.next.inj h
      obtain ⟨-, -, -, -, hcanonical, hloaded⟩ := State.pushRegs_frame (regRange x y) s
      exact .trans ⟨hcanonical, hloaded⟩ (.of_mem_eq rfl)
    | _ => cases hstore

/-- What holds across every instruction, and of a state and itself, holds across every step. -/
theorem holds_across_step {P : State → State → Prop} (hrefl : ∀ s, P s s) (hexec : ∀ i s t, exec i s = .next t → P s t)
    {s t : State} (h : step s = .next t) : P s t := by
  obtain ⟨-, rfl⟩ | ⟨-, i, -, hi⟩ := step_next.mp h
  · exact hrefl t
  · exact hexec i s t hi

theorem step_memGrows {s t : State} (h : step s = .next t) : s.MemGrows t :=
  holds_across_step (fun _ => .of_mem_eq rfl) (fun _ _ _ => exec_memGrows) h

/-- Settles O17: every instruction keeps the canonical form, and a halted step changes nothing. -/
theorem stepKeepsMemoryCanonical : Obligations.StepKeepsMemoryCanonical := fun _ _ hwf h =>
  (step_memGrows h).canonical hwf

/-! ### The configuration and the halt latch -/

/-- HLT alone writes the latch, and no instruction writes the configuration. -/
theorem exec_keepsMode_of_ne_hlt {i : Instr} {s t : State} (h : exec i s = .next t) (hne : ∀ u, i ≠ .hlt u) : s.KeepsMode t := by
  cases i with
  | nop => obtain ⟨-, rfl⟩ := execNop_next.mp h; exact ⟨rfl, rfl⟩
  | load | loadz => obtain ⟨v, -, rfl⟩ := State.loadInto_next.mp h; exact ⟨rfl, rfl⟩
  | div => obtain ⟨q, m, -, rfl⟩ := execDiv_next.mp h; exact ⟨rfl, rfl⟩
  | jz | jnz | jc | jnc | jn => obtain rfl := State.jumpIf_next.mp h; exact ⟨rfl, rfl⟩
  | ret =>
    obtain ⟨-, hpop⟩ := execRet_next.mp h
    obtain ⟨hi, lo, -, -, rfl⟩ := State.popReturn_next.mp hpop
    exact ⟨rfl, rfl⟩
  | push x y =>
    obtain rfl := Host.Outcome.next.inj h
    obtain ⟨-, -, hhalted, hcfg, -⟩ := State.pushRegs_frame (regRange x y) s
    exact ⟨hhalted, hcfg⟩
  | pop =>
    obtain ⟨u, hu, rfl⟩ := execPop_next.mp h
    obtain ⟨-, -, hhalted, hcfg, -⟩ := State.popRegs_frame hu
    exact ⟨hhalted, hcfg⟩
  | hlt u => exact absurd rfl (hne u)
  | _ => obtain rfl := Host.Outcome.next.inj h; exact ⟨rfl, rfl⟩

/-- HLT, where it completes, sets the latch and changes nothing else (R156). -/
theorem exec_hlt_next {u : Byte} {s t : State} (h : exec (.hlt u) s = .next t) : t = s.setHalted := by
  obtain ⟨-, ht⟩ := execHlt_next.mp h
  exact ht

theorem exec_cfg {i : Instr} {s t : State} (h : exec i s = .next t) : t.cfg = s.cfg := by
  by_cases hhlt : ∃ u, i = .hlt u
  · obtain ⟨u, rfl⟩ := hhlt
    rw [exec_hlt_next h, State.setHalted_cfg]
  · exact (exec_keepsMode_of_ne_hlt h fun u hu => hhlt ⟨u, hu⟩).2

/-- Settles O19: both hold across every instruction. -/
theorem stepKeepsConfigurationAndLoadedBytes : Obligations.StepKeepsConfigurationAndLoadedBytes := fun _ _ h =>
  ⟨holds_across_step (P := fun s t => t.cfg = s.cfg) (fun _ => rfl) (fun _ _ _ => exec_cfg) h, (step_memGrows h).loaded⟩

/-- Settles O16: an instruction answers a next state or a listed fault (O14, O15), and of those the default configuration and loaded
memory leave none. -/
theorem everyInstructionCompletesOnLoadedMemory : Obligations.EveryInstructionCompletesOnLoadedMemory := by
  intro i s hcfg hloaded
  cases h : exec i s with
  | next t => exact ⟨t, rfl, fun a => (exec_memGrows h).loaded a (hloaded a), (exec_cfg h).trans hcfg⟩
  | refused r => exact absurd h (exec_ne_refused i s r)
  | fault f =>
    obtain ⟨a, -, hnone, -⟩ | ⟨hstrict, -⟩ | ⟨hdiv0, -⟩ := instructionFaultsOnlyAsListed i s f h
    · exact absurd (hloaded a) (by simp [hnone])
    · exact absurd hstrict (by simp [hcfg, Config.default])
    · exact absurd hdiv0 (by simp [hcfg, Config.default])

/-! ### Halting -/

/-- A step that leads from running to halted performed HLT. -/
theorem hlt_of_step_halts {s t : State} (hrun : s.halted = false) (h : step s = .next t) (hhalt : t.halted = true) :
    ∃ u, s.fetch = .ok (.hlt u) ∧ exec (.hlt u) s = .next t := by
  obtain ⟨hs, -⟩ | ⟨-, i, hfetch, hexec⟩ := step_next.mp h
  · simp [hrun] at hs
  · by_cases hhlt : ∃ u, i = .hlt u
    · obtain ⟨u, rfl⟩ := hhlt
      exact ⟨u, hfetch, hexec⟩
    · have hkeep := (exec_keepsMode_of_ne_hlt hexec fun u hu => hhlt ⟨u, hu⟩).1
      simp [hkeep, hrun] at hhalt

/-- Settles O12: the step that halts performed HLT, whose whole effect is the latch. -/
theorem onlyHltHalts : Obligations.OnlyHltHalts := by
  intro s t hrun h
  refine ⟨⟨fun hhalt => ?_, fun ⟨u, hfetch⟩ => ?_⟩, fun hhalt => ?_⟩
  · obtain ⟨u, hfetch, -⟩ := hlt_of_step_halts hrun h hhalt
    exact ⟨u, hfetch⟩
  · rw [step_of_fetch hrun hfetch] at h
    rw [exec_hlt_next h, State.setHalted_halted]
  · obtain ⟨u, -, hexec⟩ := hlt_of_step_halts hrun h hhalt
    obtain rfl := exec_hlt_next hexec
    exact ⟨rfl, fun _ _ => rfl, rfl, fun _ => rfl, rfl⟩

/-- Settles O11: each step of a halted machine answers the same state. -/
theorem haltedMachineStays : Obligations.HaltedMachineStays := by
  intro s n h
  induction n with
  | zero => rfl
  | succ n ih => rw [stepN_succ_of_step (step_of_halted h), ih]

/-- A run that answers a state goes on with a step from there. -/
theorem stepN_succ_of_stepN {n : Nat} {s r t : State} (h : stepN n s = .next r) (hr : step r = .next t) :
    stepN (n + 1) s = .next t := by
  induction n generalizing s with
  | zero =>
    obtain rfl := Host.Outcome.next.inj h
    exact stepN_succ_of_step hr
  | succ n ih =>
    rw [stepN] at h
    split at h
    · next q hq => rw [stepN_succ_of_step hq, ih h]
    · cases h
    · cases h

/-- A run from a running state to a halted one performed an HLT, after which nothing changed. -/
theorem hlt_of_stepN_halts {n : Nat} {s t : State} (hrun : s.halted = false) (h : stepN n s = .next t) (hhalt : t.halted = true) :
    ∃ (n : Nat) (r : State) (u : Byte), stepN n s = .next r ∧ r.halted = false ∧ r.fetch = .ok (.hlt u) ∧
      exec (.hlt u) r = .next t := by
  induction n generalizing s with
  | zero =>
    obtain rfl := Host.Outcome.next.inj h
    simp [hrun] at hhalt
  | succ n ih =>
    rw [stepN] at h
    split at h
    · next s1 hs1 =>
      cases hs1run : s1.halted with
      | false =>
        obtain ⟨m, r, u, hm, hr⟩ := ih hs1run h
        exact ⟨m + 1, r, u, (stepN_succ_of_step hs1).trans hm, hr⟩
      | true =>
        obtain rfl := Host.Outcome.next.inj ((haltedMachineStays s1 n hs1run).symm.trans h)
        obtain ⟨u, hfetch, hexec⟩ := hlt_of_step_halts hrun hs1 hs1run
        exact ⟨0, s, u, rfl, hrun, hfetch, hexec⟩
    · cases h
    · cases h

/-- Settles O13: a run that ends performed HLT at its last change, and the step of an HLT ends a run. -/
theorem runEndsExactlyAtHlt : Obligations.RunEndsExactlyAtHlt := by
  intro s t hrun
  constructor
  · rintro ⟨n, h, hhalt⟩
    exact hlt_of_stepN_halts hrun h hhalt
  · rintro ⟨n, r, u, hn, hr, hfetch, hexec⟩
    refine ⟨n + 1, stepN_succ_of_stepN hn ((step_of_fetch hr hfetch).trans hexec), ?_⟩
    rw [exec_hlt_next hexec, State.setHalted_halted]

/-! ### The parity of `pc` -/

/-- An even distance keeps the parity of `pc` (R19, R55). -/
theorem State.MovesPcBy.isOdd_eq {s t : State} {d : Int} (h : s.MovesPcBy t d) (hd : d % 2 = 0) : isOdd t.pc = isOdd s.pc := by
  have hparity : t.pc.toNat % 2 = s.pc.toNat % 2 := by
    unfold State.MovesPcBy at h
    omega
  rw [isOdd_eq_decide, isOdd_eq_decide, hparity]

/-- A signed offset with bit 0 clear is even. -/
theorem toInt_emod_two {off : Byte} (h : (!off.getLsbD 0) = true) : off.toInt % 2 = 0 := by
  rw [Bool.not_eq_true', ← BitVec.testBit_toNat, Nat.testBit_zero, decide_eq_false_iff_not] at h
  rw [BitVec.toInt_eq_toNat_cond]
  split <;> omega

/-- A relative transfer with an even offset keeps the parity of `pc`, taken or not. -/
theorem State.jumpIf_isOdd {s t : State} {taken : Bool} {off : Byte} (h : s.jumpIf taken off = .next t)
    (heven : (!off.getLsbD 0) = true) : isOdd t.pc = isOdd s.pc := by
  have hoff := toInt_emod_two heven
  refine (State.jumpIf_movesPcBy h).isOdd_eq ?_
  split <;> omega

/-- Settles O20: an instruction that is no transfer moves `pc` by its own even length, a relative transfer by an even distance. -/
theorem evenProgramCounterStaysEven : Obligations.EvenProgramCounterStaysEven := by
  intro i s t h hs hoff hjmpl hcalll hret
  rw [← hs]
  cases i with
  | jmp off | call off =>
    obtain rfl := Host.Outcome.next.inj h
    have heven := toInt_emod_two hoff
    exact (State.movesPcBy_relativeTarget rfl).isOdd_eq (by omega)
  | jz | jnz | jc | jnc | jn => exact State.jumpIf_isOdd h hoff
  | jmpl x y => exact absurd rfl (hjmpl x y)
  | calll x y => exact absurd rfl (hcalll x y)
  | ret u => exact absurd rfl (hret u)
  | hlt => obtain rfl := exec_hlt_next h; rfl
  | _ =>
    rw [exec_pc_of_not_isTransfer h rfl nofun]
    exact isOdd_add_encode_length s.pc _

/-! ### Registers -/

/-- A frame list may name more registers than are written. -/
theorem State.KeepsRegsBut.mono {s t : State} {l l' : List RegNum} (h : s.KeepsRegsBut t l) (hsub : l ⊆ l') :
    s.KeepsRegsBut t l' :=
  fun r hr => h r (mt (@hsub r) hr)

theorem State.KeepsRegsBut.trans {s t u : State} {l : List RegNum} (h : s.KeepsRegsBut t l) (h' : t.KeepsRegsBut u l) :
    s.KeepsRegsBut u l := fun r hr => (h' r hr).trans (h r hr)

theorem State.keepsRegsBut_setReg (s : State) (i : RegNum) (v : Byte) : s.KeepsRegsBut (s.setReg i v) [i] :=
  fun _ hr => State.reg_setReg_other s v (List.ne_of_not_mem_cons hr)

/-- PUSH's loop writes no register but the halves of SP (R146). -/
theorem State.keepsRegsBut_pushRegs (l : List RegNum) (s : State) : s.KeepsRegsBut (s.pushRegs l) [14#4, 15#4] := by
  induction l generalizing s with
  | nil => exact fun _ _ => rfl
  | cons i rest ih => exact (s.keepsRegsBut_setSp _).trans (ih (s.pushReg i))

/-- POP's loop writes no register but those of its list and the halves of SP (R147). -/
theorem State.keepsRegsBut_popRegs {l : List RegNum} {s t : State} (h : s.popRegs l = .ok t) :
    s.KeepsRegsBut t (14#4 :: 15#4 :: l) := by
  induction l generalizing s with
  | nil =>
    obtain rfl := Except.ok.inj h
    exact fun _ _ => rfl
  | cons i rest ih =>
    rw [State.popRegs] at h
    split at h
    · next s1 hs1 =>
      obtain ⟨v, -, rfl⟩ := State.popReg_ok.mp hs1
      refine ((s.keepsRegsBut_setReg i v).mono (by simp)).trans ?_
      refine ((State.keepsRegsBut_setSp _ _).mono (by simp)).trans ((ih h).mono ?_)
      exact List.cons_subset_cons _ (List.cons_subset_cons _ (List.subset_cons_self i rest))
    · cases h

/-- Settles O24: every register that an instruction's meaning writes is in the table. -/
theorem registersWrittenOnlyAsTabulated : Obligations.RegistersWrittenOnlyAsTabulated := by
  intro i s t h
  cases i with
  | nop => obtain ⟨-, rfl⟩ := execNop_next.mp h; exact fun _ _ => rfl
  | hlt => obtain rfl := exec_hlt_next h; exact fun _ _ => rfl
  | stor | storz | cmp | test | jmp | jmpl => obtain rfl := Host.Outcome.next.inj h; exact fun _ _ => rfl
  | jz | jnz | jc | jnc | jn => obtain rfl := State.jumpIf_next.mp h; exact fun _ _ => rfl
  | load | loadz => obtain ⟨v, -, rfl⟩ := State.loadInto_next.mp h; exact s.keepsRegsBut_setReg _ v
  | div =>
    obtain ⟨q, m, -, rfl⟩ := execDiv_next.mp h
    exact (s.onlyWrites_setReg_setReg _ _ q m 2).regs
  | ldi16 | swap | mul => obtain rfl := Host.Outcome.next.inj h; exact (s.onlyWrites_setReg_setReg _ _ _ _ 2).regs
  | call | calll => obtain rfl := Host.Outcome.next.inj h; exact s.keepsRegsBut_setSp _
  | ret =>
    obtain ⟨-, hpop⟩ := execRet_next.mp h
    obtain ⟨hi, lo, -, -, rfl⟩ := State.popReturn_next.mp hpop
    exact s.keepsRegsBut_setSp _
  | push x y => obtain rfl := Host.Outcome.next.inj h; exact s.keepsRegsBut_pushRegs (regRange x y)
  | pop x y =>
    obtain ⟨u, hu, rfl⟩ := execPop_next.mp h
    exact (State.keepsRegsBut_popRegs hu).mono (by simp [Instr.writtenRegs, List.subset_def, mem_popOrderList])
  | _ => obtain rfl := Host.Outcome.next.inj h; exact s.keepsRegsBut_setReg _ _

/-! ### Flags that an instruction does not read -/

/-- PUSH's loop does not look at the flags. -/
theorem State.pushRegs_withFlags (l : List RegNum) (s : State) (f : Flags) :
    (s.withFlags f).pushRegs l = (s.pushRegs l).withFlags f := by
  induction l generalizing s with
  | nil => rfl
  | cons i rest ih => exact ih (s.pushReg i)

/-- POP's loop does not look at the flags. -/
theorem State.popRegs_withFlags {l : List RegNum} {s t : State} (f : Flags) (h : s.popRegs l = .ok t) :
    (s.withFlags f).popRegs l = .ok (t.withFlags f) := by
  induction l generalizing s with
  | nil =>
    obtain rfl := Except.ok.inj h
    rfl
  | cons i rest ih =>
    rw [State.popRegs] at h
    split at h
    · next s1 hs1 =>
      obtain ⟨v, hv, rfl⟩ := State.popReg_ok.mp hs1
      have hpop : (s.withFlags f).popReg i = .ok (((s.setReg i v).setSp ((s.setReg i v).sp + 1#16)).withFlags f) :=
        State.popReg_ok.mpr ⟨v, hv, rfl⟩
      simp only [State.popRegs, hpop, ih h]
    · cases h

/-- The flags after an instruction that leaves `t`, run with the flags `f` instead: those that it writes are as in `t`, the others as
in `f`. -/
def flagsAfter (i : Instr) (t : State) (f : Flags) : Flags where
  z := if i.writesZN then t.flags.z else f.z
  c := if i.writesC then t.flags.c else f.c
  n := if i.writesZN then t.flags.n else f.n

/-- With other flags, alike where the instruction reads them, an instruction does the same, and leaves the flags that it does not
write as they were (R22, R23). -/
theorem exec_withFlags {i : Instr} {s t : State} {f : Flags} (h : exec i s = .next t) (hz : i.readsZ = true → f.z = s.flags.z)
    (hc : i.readsC = true → f.c = s.flags.c) (hn : i.readsN = true → f.n = s.flags.n) :
    exec i (s.withFlags f) = .next (t.withFlags (flagsAfter i t f)) := by
  cases i with
  | nop =>
    obtain ⟨hu, rfl⟩ := execNop_next.mp h
    exact execNop_next.mpr ⟨hu, rfl⟩
  | hlt =>
    obtain ⟨hu, rfl⟩ := execHlt_next.mp h
    exact execHlt_next.mpr ⟨hu, rfl⟩
  | load | loadz =>
    obtain ⟨v, hv, rfl⟩ := State.loadInto_next.mp h
    exact State.loadInto_next.mpr ⟨v, hv, rfl⟩
  | div =>
    obtain ⟨q, m, hqm, rfl⟩ := execDiv_next.mp h
    exact execDiv_next.mpr ⟨q, m, hqm, rfl⟩
  | ret =>
    obtain ⟨hu, hpop⟩ := execRet_next.mp h
    obtain ⟨hi, lo, hhi, hlo, rfl⟩ := State.popReturn_next.mp hpop
    exact execRet_next.mpr ⟨hu, State.popReturn_next.mpr ⟨hi, lo, hhi, hlo, rfl⟩⟩
  | push x y =>
    obtain rfl := Host.Outcome.next.inj h
    exact congrArg (fun u => Host.Outcome.next (State.advance u 2)) (s.pushRegs_withFlags (regRange x y) f)
  | pop x y =>
    obtain ⟨u, hu, rfl⟩ := execPop_next.mp h
    exact execPop_next.mpr ⟨_, State.popRegs_withFlags f hu, rfl⟩
  | jz | jnz =>
    obtain rfl := State.jumpIf_next.mp h
    exact State.jumpIf_next.mpr (by rw [← hz rfl]; rfl)
  | jc | jnc =>
    obtain rfl := State.jumpIf_next.mp h
    exact State.jumpIf_next.mpr (by rw [← hc rfl]; rfl)
  | jn =>
    obtain rfl := State.jumpIf_next.mp h
    exact State.jumpIf_next.mpr (by rw [← hn rfl]; rfl)
  | adc | sbc | shl | shr =>
    obtain ⟨z, c, n⟩ := f
    obtain rfl : c = s.flags.c := hc rfl
    obtain rfl := Host.Outcome.next.inj h
    rfl
  | _ =>
    obtain rfl := Host.Outcome.next.inj h
    rfl

theorem ite_eq_of_keeps {w a b : Bool} (h : w = false → a = b) : (if w then a else b) = a := by
  cases w with
  | false => exact (h rfl).symm
  | true => rfl

/-- Settles O22: with one flag changed that is not read, `exec_withFlags` applies; the flags not written are those of `t` (O21). -/
theorem flagsReadOnlyByTheirReaders : Obligations.FlagsReadOnlyByTheirReaders := by
  intro i s t b h
  obtain ⟨hzn, hc⟩ := flagsChangeOnlyByTheirWriters i s t h
  have hkeepZ := ite_eq_of_keeps fun hw => (hzn hw).1
  have hkeepC := ite_eq_of_keeps hc
  have hkeepN := ite_eq_of_keeps fun hw => (hzn hw).2
  refine ⟨fun hr => ?_, fun hr => ?_, fun hr => ?_⟩
  · have hexec := exec_withFlags (f := { s.flags with z := b }) h (by simp [hr]) (fun _ => rfl) (fun _ => rfl)
    rw [flagsAfter, hkeepC, hkeepN] at hexec
    exact ⟨_, hexec⟩
  · have hexec := exec_withFlags (f := { s.flags with c := b }) h (fun _ => rfl) (by simp [hr]) (fun _ => rfl)
    rw [flagsAfter, hkeepZ, hkeepN] at hexec
    exact ⟨_, hexec⟩
  · have hexec := exec_withFlags (f := { s.flags with n := b }) h (fun _ => rfl) (fun _ => rfl) (by simp [hr])
    rw [flagsAfter, hkeepZ, hkeepC] at hexec
    exact ⟨_, hexec⟩

end Sys2Proof.Machine
end

section
/-! Data and arithmetic (spec/40_data_movement.md to 43_logical.md): loads, sums and differences, the comparison followed by a jump,
product and quotient, and nine rotates in a row. -/

namespace Sys2Proof.Machine

/-! ### Data movement -/

/-- Settles O27: Rx is written first, and Ry after it, so that Ry keeps its byte even where it is Rx. -/
theorem loadImmediate16Result : Obligations.LoadImmediate16Result := by
  intro x y hi lo s
  obtain ⟨hregs, hmem, hmode, hpc⟩ := s.onlyWrites_setReg_setReg x y hi lo 4
  refine ⟨decodeInvertsEncode (.ldi16 x y hi lo), _, rfl, State.reg_setReg_same _ y lo, fun hxy => ?_, hregs, rfl, hmem, hmode, hpc⟩
  rw [State.advance_reg, State.reg_setReg_other _ lo hxy, State.reg_setReg_same]

/-- Where a pair of instructions completes and the first leads to `t`, the second completes from there. -/
theorem exec_of_execAll_pair {i j : Instr} {s t u : State} (h : execAll [i, j] s = .next u) (hi : exec i s = .next t) :
    exec j t = .next u := by
  obtain ⟨t', hi', hrest⟩ := execAll_cons_next.mp h
  obtain rfl := Host.Outcome.next.inj (hi.symm.trans hi')
  obtain ⟨u', hj, hu⟩ := execAll_cons_next.mp hrest
  obtain rfl := Host.Outcome.next.inj hu
  exact hj

/-- Settles O29: the two instructions are the idiom `loadByte`. -/
theorem twoNibbleLoadsMakeAnyByte : Obligations.TwoNibbleLoadsMakeAnyByte := by
  intro x b s t h
  obtain ⟨u, hu, hx, hflags, hframe⟩ := loadByte_gives s x b
  exact ⟨u, exec_of_execAll_pair hu h, hx, hframe.regs, hflags, hframe.pc⟩

/-! ### Memory access -/

/-- An instruction whose meaning is a `loadInto` gets the byte at the address, or stops where it holds no value (R163). -/
theorem result_of_loadInto {i : Instr} {s : State} {r : RegNum} {ea a : Addr} (h : exec i s = s.loadInto r ea)
    (ha : a.toNat = ea.toNat) :
    (∀ v : Byte, s.memByte a = some v → ∃ t, exec i s = .next t ∧ t.reg r = v ∧ s.KeepsRegsBut t [r] ∧ t.flags = s.flags ∧
      s.KeepsMem t ∧ s.KeepsMode t ∧ t.pc = s.pc + 2#16) ∧
    (s.memByte a = none → exec i s = .fault (.unwrittenRead a)) := by
  obtain rfl := BitVec.eq_of_toNat_eq ha
  constructor
  · intro v hv
    exact result_of_setReg (h.trans (State.loadInto_next.mpr ⟨v, hv, rfl⟩))
  · intro hnone
    exact h.trans (State.loadInto_fault.mpr ⟨hnone, rfl⟩)

/-- Settles O30: both are a `loadInto`, at the address of `State.pairAddress_toNat` or `zeroPageAddress_toNat`. -/
theorem loadResults : Obligations.LoadResults := by
  intro s
  constructor
  · intro x y
    refine ⟨decodesTo_of_opcode_ne rfl rfl (by decide), fun a ha => result_of_loadInto rfl ?_⟩
    rw [ha, State.pairAddress_toNat]
  · intro b
    refine ⟨decodesTo_of_opcode_ne rfl rfl (by decide), fun a ha => result_of_loadInto rfl ?_⟩
    rw [ha, zeroPageAddress_toNat]

/-- Two bytes in memory. -/
theorem State.holdsBytes_pair {s : State} {a : Addr} {op arg : Byte} (hop : s.memByte a = some op)
    (harg : s.memByte (a + 1#16) = some arg) : s.HoldsBytes a [op, arg] := by
  intro k v hk
  match k, hk with
  | 0, hk =>
    obtain rfl : op = v := by simpa using hk
    rwa [BitVec.add_zero]
  | 1, hk =>
    obtain rfl : arg = v := by simpa using hk
    exact harg
  | _ + 2, hk => simp at hk

/-- Settles O32: after the store the two bytes at the new `pc` are the old opcode byte and the stored byte, which the next step runs
(O8). -/
theorem storeIsSeenByTheNextFetch : Obligations.StoreIsSeenByTheNextFetch := by
  intro s t x y op i hrun hfetch hop haddr hdecode hstep
  obtain ⟨heven, -⟩ := State.fetch_ok.mp hfetch
  rw [step_of_fetch hrun hfetch] at hstep
  obtain rfl := Host.Outcome.next.inj hstep
  rw [haddr]
  have hsucc : s.pc + 3#16 = s.pc + 2#16 + 1#16 := by bv_omega
  refine stepRunsDecodedInstruction _ [op, s.reg x] [] i ?run ?even (State.holdsBytes_pair ?op ?arg) hdecode
  case run => exact hrun
  case even => exact (isOdd_add_encode_length s.pc (.stor x y)).trans heven
  case op =>
    change (s.memWrite (s.pc + 3#16) (s.reg x)).memByte (s.pc + 2#16) = some op
    rw [State.memByte_memWrite_other s _ (hsucc ▸ (addr_succ_ne _).symm), hop]
  case arg =>
    change (s.memWrite (s.pc + 3#16) (s.reg x)).memByte (s.pc + 2#16 + 1#16) = some (s.reg x)
    rw [← hsucc, State.memByte_memWrite_same]

/-! ### Sums and differences -/

theorem sumCarry_eq_true_iff (n : Nat) : sumCarry n = true ↔ 255 < n := decide_eq_true_iff

/-- Settles O33: both are a `writeResult` of an exact sum. -/
theorem additionResults : Obligations.AdditionResults := by
  intro x y s
  exact ⟨⟨decodesTo_of_opcode_ne rfl rfl (by decide),
      result_of_writeResult rfl (BitVec.toNat_ofNat _ _) (sumCarry_eq_true_iff _)⟩,
    decodesTo_of_opcode_ne rfl rfl (by decide),
    result_of_writeResult rfl (BitVec.toNat_ofNat _ _) (sumCarry_eq_true_iff _)⟩

/-- An instruction that is the subtractor with incoming borrow `c` leaves the exact difference modulo 256 and the borrow (R93,
R94). -/
theorem result_of_subInto {i : Instr} {s : State} {x : RegNum} {b : Byte} {c : Bool} (h : exec i s = s.subInto x b c) :
    ∃ t, exec i s = .next t ∧ ((t.reg x).toNat : Int) = ((s.reg x).toNat - b.toNat - c.toNat : Int) % 256 ∧
      (t.flags.c = true ↔ (s.reg x).toNat < b.toNat + c.toNat) ∧ t.flags.DescribeZN (t.reg x) ∧
      s.KeepsRegsBut t [x] ∧ s.KeepsMem t ∧ s.KeepsMode t ∧ t.pc = s.pc + 2#16 := by
  obtain ⟨t, hexec, hx, hc, hframe⟩ := result_of_writeResult (p := (s.reg x).toNat < b.toNat + c.toNat) h rfl decide_eq_true_iff
  exact ⟨t, hexec, (congrArg Nat.cast hx).trans (diffByte_toNat _), hc, hframe⟩

/-- Settles O34: SUB is the subtractor with no incoming borrow, SBC with the old C. -/
theorem subtractionResults : Obligations.SubtractionResults := by
  intro x y s
  refine ⟨⟨decodesTo_of_opcode_ne rfl rfl (by decide), ?_⟩, decodesTo_of_opcode_ne rfl rfl (by decide), result_of_subInto rfl⟩
  simpa using result_of_subInto (i := .sub x y) (s := s) (c := false) rfl

/-- Settles O38: the two instructions are the idiom `add16`. -/
theorem addThenAdcAddsSixteenBits : Obligations.AddThenAdcAddsSixteenBits := by
  intro xl yl xh yh s t hxh hyh h
  obtain ⟨u, hu, hval, -⟩ := add16_gives s xl yl xh yh rfl rfl
  obtain ⟨hsum, hcarry⟩ := hval hxh hyh
  refine ⟨u, exec_of_execAll_pair hu h, ?_, ?_⟩
  · omega
  · rw [hcarry]
    omega

/-- Settles O39: the two instructions are the idiom `sub16`. -/
theorem subThenSbcSubtractsSixteenBits : Obligations.SubThenSbcSubtractsSixteenBits := by
  intro xl yl xh yh s t hxh hyh h
  obtain ⟨u, hu, hval, -⟩ := sub16_gives s xl yl xh yh rfl rfl
  exact ⟨u, exec_of_execAll_pair hu h, hval hxh hyh⟩

/-! ### A comparison followed by a jump -/

/-- An instruction that is a conditional jump goes to its target where `p` holds and past its two bytes where `q` does, `taken`
deciding between them. -/
theorem jump_decides {i : Instr} {t : State} {taken : Bool} {off : Byte} {p q : Prop} (h : exec i t = t.jumpIf taken off)
    (hp : p → taken = true) (hq : q → taken = false) :
    ∃ u, exec i t = .next u ∧ (p → u.pc = relativeTarget t.pc off) ∧ (q → u.pc = t.pc + 2#16) := by
  refine ⟨_, h.trans (State.jumpIf_next.mpr rfl), fun hp' => ?_, fun hq' => ?_⟩
  · rw [hp hp']
    rfl
  · rw [hq hq']
    rfl

/-- Settles O37: CMP leaves Z on equality and C on below, which the four jumps test. -/
theorem compareThenJumpDecides : Obligations.CompareThenJumpDecides := by
  intro x y off s t h
  obtain ⟨-, t', h', hz, hc, -⟩ := compareResult x y s
  obtain rfl := Host.Outcome.next.inj (h.symm.trans h')
  rw [← BitVec.toNat_inj] at hz
  have hz : t.flags.z = decide ((s.reg x).toNat = (s.reg y).toNat) := Bool.eq_iff_iff.mpr (hz.trans decide_eq_true_iff.symm)
  have hc : t.flags.c = decide ((s.reg x).toNat < (s.reg y).toNat) := Bool.eq_iff_iff.mpr (hc.trans decide_eq_true_iff.symm)
  exact ⟨jump_decides rfl (by simp [hz]) (by simp [hz]), jump_decides rfl (by simp [hz]) (by simp [hz]),
    jump_decides rfl (by simp [hc]) (by simp [hc]), jump_decides rfl (by simp [hc]) (by simp [hc])⟩

/-! ### Product and quotient -/

/-- The state that MUL and DIV leave: `v` in Rx, `w` in the register after it, and the flags (R98, R99). -/
def State.afterPair (s : State) (x : RegNum) (v w : Byte) (f : Flags) : State :=
  (((s.setReg x v).setReg (nextReg x) w).setFlags f).advance 2

@[simp] theorem State.afterPair_flags (s : State) (x : RegNum) (v w : Byte) (f : Flags) : (s.afterPair x v w f).flags = f := rfl

@[simp] theorem State.afterPair_reg_first (s : State) (x : RegNum) (v w : Byte) (f : Flags) : (s.afterPair x v w f).reg x = v := by
  simp [State.afterPair, State.reg_setReg_other _ _ (nextReg_ne x).symm]

@[simp] theorem State.afterPair_reg_second (s : State) (x : RegNum) (v w : Byte) (f : Flags) :
    (s.afterPair x v w f).reg (x + 1#4) = w :=
  State.reg_setReg_same (s.setReg x v) (nextReg x) w

theorem State.onlyWrites_afterPair (s : State) (x : RegNum) (v w : Byte) (f : Flags) :
    s.OnlyWrites (s.afterPair x v w f) [x, x + 1#4] 2#16 := by
  obtain ⟨hregs, hmem, hmode, hpc⟩ := s.onlyWrites_setReg_setReg x (nextReg x) v w 2
  exact ⟨hregs, hmem, hmode, hpc⟩

/-- A number of 16 bits is made of its two bytes. -/
theorem bytes_of_lt {p : Nat} (h : p < 65536) :
    256 * (highByte (BitVec.ofNat 16 p)).toNat + (lowByte (BitVec.ofNat 16 p)).toNat = p := by
  rw [← joinBytes_toNat, joinBytes_bytes, BitVec.toNat_ofNat, Nat.mod_eq_of_lt h]

/-- N after MUL is bit 7 of the product's low byte (R98). -/
theorem productFlags_n_eq_true_iff (p : Nat) : (productFlags p).n = true ↔ 128 ≤ (lowByte (BitVec.ofNat 16 p)).toNat := by
  have hlow : BitVec.ofNat 8 p = lowByte (BitVec.ofNat 16 p) := by
    apply BitVec.eq_of_toNat_eq
    rw [lowByte_toNat, BitVec.toNat_ofNat, BitVec.toNat_ofNat]
    omega
  rw [← hlow]
  exact negFlag_eq_true_iff _

/-- Settles O40: the product of two bytes fits in the two bytes written. -/
theorem multiplyResult : Obligations.MultiplyResult := by
  intro x y s
  let p := (s.reg x).toNat * (s.reg y).toNat
  have hfit : p < 65536 := Nat.mul_lt_mul'' (s.reg x).isLt (s.reg y).isLt
  let t := s.afterPair x (highByte (BitVec.ofNat 16 p)) (lowByte (BitVec.ofNat 16 p)) (productFlags p)
  have hlow : t.reg (x + 1#4) = lowByte (BitVec.ofNat 16 p) := s.afterPair_reg_second x _ _ _
  obtain ⟨hregs, hmem, hmode, hpc⟩ := s.onlyWrites_afterPair x (highByte (BitVec.ofNat 16 p)) (lowByte (BitVec.ofNat 16 p))
    (productFlags p)
  refine ⟨decodesTo_of_opcode_ne rfl rfl (by decide), t, rfl, ?_, decide_eq_true_iff, decide_eq_true_iff, ?_, hregs, hmem, hmode,
    hpc⟩
  · rw [hlow, State.afterPair_reg_first, bytes_of_lt hfit]
  · rw [hlow]
    exact productFlags_n_eq_true_iff p

/-- For a divisor that is not zero DIV writes the quotient and the remainder of the numbers (R99). -/
theorem divideBytes_of_ne_zero {d : DivZero} {a b : Byte} (hb : b ≠ 0#8) :
    divideBytes d a b = some (BitVec.ofNat 8 (a.toNat / b.toNat), BitVec.ofNat 8 (a.toNat % b.toNat)) := by
  simp only [divideBytes, if_neg hb]

/-- The quotient and the remainder of two bytes fit in a byte each and divide the first by the second (R99). -/
theorem quotient_remainder {a b : Byte} (hb : b ≠ 0#8) :
    (BitVec.ofNat 8 (a.toNat / b.toNat)).toNat * b.toNat + (BitVec.ofNat 8 (a.toNat % b.toNat)).toNat = a.toNat ∧
      (BitVec.ofNat 8 (a.toNat % b.toNat)).toNat < b.toNat := by
  have hpos : 0 < b.toNat := Nat.pos_of_ne_zero fun h => hb (BitVec.eq_of_toNat_eq h)
  have hquot : a.toNat / b.toNat < 256 := (Nat.div_le_self _ _).trans_lt a.isLt
  have hrem : a.toNat % b.toNat < 256 := (Nat.mod_le _ _).trans_lt a.isLt
  rw [BitVec.toNat_ofNat, BitVec.toNat_ofNat, Nat.mod_eq_of_lt hquot, Nat.mod_eq_of_lt hrem]
  exact ⟨Nat.div_add_mod' _ _, Nat.mod_lt _ hpos⟩

/-- Where there is a quotient `q` and a remainder `m`, DIV writes them, with Z and N of the quotient and C cleared. -/
theorem result_of_divideBytes {x y : RegNum} {s : State} {q m : Byte}
    (h : divideBytes s.cfg.div0 (s.reg x) (s.reg y) = some (q, m)) :
    ∃ t, exec (.div x y) s = .next t ∧ t.reg x = q ∧ t.reg (x + 1#4) = m ∧ t.flags.c = false ∧ t.flags.DescribeZN (t.reg x) ∧
      s.KeepsRegsBut t [x, x + 1#4] ∧ s.KeepsMem t ∧ s.KeepsMode t ∧ t.pc = s.pc + 2#16 := by
  obtain ⟨hregs, hmem, hmode, hpc⟩ := s.onlyWrites_afterPair x q m (resultFlags q false)
  refine ⟨s.afterPair x q m (resultFlags q false), execDiv_next.mpr ⟨q, m, h, rfl⟩, s.afterPair_reg_first x q m _,
    s.afterPair_reg_second x q m _, rfl, ?_, hregs, hmem, hmode, hpc⟩
  rw [State.afterPair_reg_first]
  exact resultFlags_describeZN q false

/-- Settles O41: a divisor that is not zero, a zero one under each setting of DIV0. -/
theorem divideResult : Obligations.DivideResult := by
  intro x y s
  refine ⟨decodesTo_of_opcode_ne rfl rfl (by decide), fun hzero hfault => execDiv_fault.mpr ⟨hzero, hfault, rfl⟩,
    fun hmeaning => ?_⟩
  by_cases hzero : s.reg y = 0#8
  · have hdoc : s.cfg.div0 = .documented := hmeaning.resolve_left (not_not_intro hzero)
    have hbytes : divideBytes s.cfg.div0 (s.reg x) (s.reg y) = some (0xFF#8, s.reg x) := by
      simp only [divideBytes, if_pos hzero, hdoc]
    obtain ⟨t, hexec, hx, hnext, hframe⟩ := result_of_divideBytes hbytes
    exact ⟨t, hexec, absurd hzero, fun _ => ⟨hx, hnext⟩, hframe⟩
  · obtain ⟨t, hexec, hx, hnext, hframe⟩ := result_of_divideBytes (divideBytes_of_ne_zero hzero)
    refine ⟨t, hexec, fun hne => ?_, (absurd · hzero), hframe⟩
    rw [hx, hnext]
    exact quotient_remainder hne

/-! ### Nine rotates -/

/-- One left rotate of the nine bits `c ## r` gives `c' ## r'`: the nine bits doubled, bit 8 coming back as bit 0. -/
def RotatesLeft (r : Byte) (c : Bool) (r' : Byte) (c' : Bool) : Prop := 256 * c'.toNat + r'.toNat = 2 * r.toNat + c.toNat

/-- `n` left rotates multiply the nine bits by `2 ^ n`, less 511 times the number `out` of the bits rotated out. -/
theorem rotatesLeft_iterate {r : Nat → Byte} {c : Nat → Bool} (n : Nat)
    (h : ∀ k, k < n → RotatesLeft (r k) (c k) (r (k + 1)) (c (k + 1))) :
    ∃ out < 2 ^ n, 256 * (c n).toNat + (r n).toNat + 511 * out = 2 ^ n * (256 * (c 0).toNat + (r 0).toNat) := by
  induction n with
  | zero => exact ⟨0, by simp, by simp⟩
  | succ n ih =>
    obtain ⟨out, hlt, hout⟩ := ih fun k hk => h k (Nat.lt_succ_of_lt hk)
    have hstep : 256 * (c (n + 1)).toNat + (r (n + 1)).toNat = 2 * (r n).toNat + (c n).toNat := h n (Nat.lt_succ_self n)
    have hbit := Bool.toNat_le (c n)
    rw [Nat.pow_succ, Nat.mul_right_comm]
    exact ⟨2 * out + (c n).toNat, by omega, by omega⟩

/-- `2 ^ 9` is 1 more than 511, so that nine rotates lead a number of nine bits back to itself. -/
theorem eq_of_add_511_mul {v w out : Nat} (hw : w < 512) (hlt : out < 2 ^ 9) (h : w + 511 * out = 2 ^ 9 * v) : w = v := by
  omega

/-- Nine left rotates restore the byte and the carry. -/
theorem rotatesLeft_nine {r : Nat → Byte} {c : Nat → Bool}
    (h : ∀ k, k < 9 → RotatesLeft (r k) (c k) (r (k + 1)) (c (k + 1))) : r 9 = r 0 ∧ c 9 = c 0 := by
  obtain ⟨out, hlt, hout⟩ := rotatesLeft_iterate 9 h
  have hr0 := (r 0).isLt
  have hr9 := (r 9).isLt
  have hc0 := Bool.toNat_le (c 0)
  have hc9 := Bool.toNat_le (c 9)
  have hnine : 256 * (c 9).toNat + (r 9).toNat = 256 * (c 0).toNat + (r 0).toNat :=
    eq_of_add_511_mul (by omega) hlt hout
  have hr : (r 9).toNat = (r 0).toNat := by omega
  have hc : (c 9).toNat = (c 0).toNat := by omega
  refine ⟨BitVec.eq_of_toNat_eq hr, ?_⟩
  rw [← Bool.ofNat_toNat (c 9), hc, Bool.ofNat_toNat]

/-- SHL rotates Rx and C left (R115). -/
theorem rotatesLeft_of_shl {x : RegNum} {u : Nibble} {s t : State} (h : exec (.shl x u) s = .next t) :
    RotatesLeft (s.reg x) s.flags.c (t.reg x) t.flags.c := by
  obtain ⟨⟨-, t', ht', hnum, -⟩, -⟩ := rotateResults x u s
  obtain rfl := Host.Outcome.next.inj (h.symm.trans ht')
  exact hnum

/-- SHR undoes a left rotate (R116). -/
theorem rotatesLeft_of_shr {x : RegNum} {u : Nibble} {s t : State} (h : exec (.shr x u) s = .next t) :
    RotatesLeft (t.reg x) t.flags.c (s.reg x) s.flags.c := by
  obtain ⟨-, -, t', ht', hnum, -⟩ := rotateResults x u s
  obtain rfl := Host.Outcome.next.inj (h.symm.trans ht')
  exact hnum.symm

/-- Settles O45: nine SHLs are nine left rotates, and nine SHRs are nine left rotates read backwards. -/
theorem nineRotatesRestore : Obligations.NineRotatesRestore := by
  rintro x u s0 run rfl
  constructor
  · intro h
    exact rotatesLeft_nine fun k hk => rotatesLeft_of_shl (h k hk)
  · intro h
    obtain ⟨hr, hc⟩ := rotatesLeft_nine (r := fun k => (run (9 - k)).reg x) (c := fun k => (run (9 - k)).flags.c) fun k hk => by
      have hback : 9 - (k + 1) + 1 = 9 - k := by omega
      have hshr := rotatesLeft_of_shr (h (9 - (k + 1)) (by omega))
      rwa [hback] at hshr
    exact ⟨hr.symm, hc.symm⟩

end Sys2Proof.Machine
end

section
/-! Control flow and the stack (spec/44_control_flow.md, 45_stack.md, 46_misc.md): the long call, the return, what the loops of PUSH
and POP do to a list of registers, and NOP and HLT. -/

namespace Sys2Proof.Machine

/-! ### CALLL and RET -/

/-- Settles O50: CALLL pushes as CALL does; its target is read from the registers that it leaves. -/
theorem callLongResult : Obligations.CallLongResult := by
  intro x y s
  let ret : Addr := s.pc + 2#16
  let pushed := s.pushReturn ret
  exact ⟨decodesTo_of_opcode_ne rfl rfl (by decide), _, rfl, s.pushReturn_sp ret, s.pushReturn_memByte_high ret,
    s.pushReturn_memByte_low ret, joinBytes_toNat (pushed.reg x) (pushed.reg y), s.keepsMemBut_pushReturn ret,
    s.keepsRegsBut_setSp _, rfl, rfl, rfl⟩

/-- RET, where its operand byte is admitted and both bytes at SP hold values (R135). -/
theorem exec_ret_next {u : Byte} {s : State} {hi lo : Byte} (hu : s.cfg.strictOperand = true → u = 0#8)
    (hhi : s.memByte s.sp = some hi) (hlo : s.memByte (s.sp + 1#16) = some lo) :
    exec (.ret u) s = .next ((s.setSp (s.sp + 2#16)).setPc (joinBytes hi lo)) :=
  execRet_next.mpr ⟨hu, State.popReturn_next.mpr ⟨hi, lo, hhi, hlo, rfl⟩⟩

/-- An operand byte that is 0, or that STRICT_OPERAND does not look at, is admitted (R59). -/
theorem operand_admitted {s : State} {u : Byte} (h : s.cfg.strictOperand = false ∨ u = 0#8) :
    s.cfg.strictOperand = true → u = 0#8 := by
  intro hstrict
  exact h.resolve_left (by simp [hstrict])

/-- Settles O51: RET stops as `execRet_fault` says, and otherwise pops the return address. -/
theorem returnResult : Obligations.ReturnResult := by
  intro u s
  refine ⟨decodesTo_of_opcode_ne rfl rfl (by decide), fun hstrict hu => execRet_fault.mpr (.inl ⟨hstrict, hu, rfl⟩),
    fun hadmit => ?_⟩
  have hu := operand_admitted hadmit
  refine ⟨fun hi lo hhi hlo => ?_, fun hnone => ?_, fun hsome hnone => ?_⟩
  · exact ⟨_, exec_ret_next hu hhi hlo, joinBytes_toNat hi lo, s.setSp_sp _, s.keepsRegsBut_setSp _, rfl, fun _ => rfl, rfl, rfl⟩
  · exact execRet_fault.mpr (.inr ⟨hu, State.popReturn_fault.mpr (.inl ⟨hnone, rfl⟩)⟩)
  · exact execRet_fault.mpr (.inr ⟨hu, State.popReturn_fault.mpr (.inr ⟨hsome, hnone, rfl⟩)⟩)

/-- What both calls leave for the return: SP, and the return address in the two bytes there (R133, R134). -/
theorem stack_after_call {i : Instr} {s t : State} (hcall : (∃ off, i = .call off) ∨ ∃ x y, i = .calll x y)
    (h : exec i s = .next t) : t.sp = s.sp - 2#16 ∧ t.memByte t.sp = some (highByte (s.pc + 2#16)) ∧
      t.memByte (t.sp + 1#16) = some (lowByte (s.pc + 2#16)) := by
  obtain ⟨hsp, hhigh, hlow⟩ : t.sp = s.sp - 2#16 ∧ t.memByte (s.sp - 2#16) = some (highByte (s.pc + 2#16)) ∧
      t.memByte (s.sp - 1#16) = some (lowByte (s.pc + 2#16)) := by
    obtain ⟨off, rfl⟩ | ⟨x, y, rfl⟩ := hcall
    · obtain ⟨-, t', ht', hsp, hhigh, hlow, -⟩ := callResult off s
      obtain rfl := Host.Outcome.next.inj (h.symm.trans ht')
      exact ⟨hsp, hhigh, hlow⟩
    · obtain ⟨-, t', ht', hsp, hhigh, hlow, -⟩ := callLongResult x y s
      obtain rfl := Host.Outcome.next.inj (h.symm.trans ht')
      exact ⟨hsp, hhigh, hlow⟩
  rw [hsp, addr_sub_two_add_one]
  exact ⟨rfl, hhigh, hlow⟩

/-- Settles O52: RET joins the two bytes that the call pushed, and adds the 2 that it took from SP. -/
theorem returnUndoesCall : Obligations.ReturnUndoesCall := by
  intro i s t r hcall h hsp hbyte hbyte'
  obtain ⟨htsp, hhigh, hlow⟩ := stack_after_call hcall h
  refine ⟨_, exec_ret_next (fun _ => rfl) (hsp ▸ hbyte.trans hhigh) (hsp ▸ hbyte'.trans hlow), joinBytes_bytes _, ?_⟩
  rw [State.setPc_sp, State.setSp_sp, hsp, htsp, BitVec.sub_add_cancel]

/-! ### PUSH's loop -/

/-- Where the k-th register of PUSH's loop is stored (R146). -/
def State.slot (s : State) (k : Nat) : Addr := s.sp - BitVec.ofNat 16 (k + 1)

/-- After one push the slots are the later ones of before. -/
theorem State.slot_pushReg (s : State) (i : RegNum) (k : Nat) : (s.pushReg i).slot k = s.slot (k + 1) := by
  rw [State.slot, State.slot, State.pushReg_sp, sub_sub, ← BitVec.ofNat_add, Nat.add_comm 1]

/-- As many slots as there are addresses are different ones. -/
theorem State.slot_inj (s : State) {j k : Nat} (hj : j < 65536) (hk : k < 65536) (h : s.slot j = s.slot k) : j = k := by
  unfold State.slot at h
  bv_omega

theorem State.pushRegs_sp (l : List RegNum) (s : State) : (s.pushRegs l).sp = s.sp - BitVec.ofNat 16 l.length := by
  induction l generalizing s with
  | nil => exact (BitVec.sub_zero s.sp).symm
  | cons i rest ih => rw [State.pushRegs, ih, State.pushReg_sp, sub_sub, ← BitVec.ofNat_add, List.length_cons, Nat.add_comm]

/-- PUSH's loop changes no byte of memory but its slots. -/
theorem State.pushRegs_memByte_other {l : List RegNum} {s : State} {a : Addr} (h : ∀ k, k < l.length → a ≠ s.slot k) :
    (s.pushRegs l).memByte a = s.memByte a := by
  induction l generalizing s with
  | nil => rfl
  | cons i rest ih =>
    have hhead : a ≠ s.sp - 1#16 := h 0 (by simp)
    rw [State.pushRegs, ih, State.pushReg_memByte, if_neg hhead]
    intro k hk
    rw [State.slot_pushReg]
    exact h (k + 1) (by simpa using hk)

/-- A push moves SP and writes no other register, so that the next value of SP hides it. -/
theorem State.setSp_pushReg_reg (s : State) (j r : RegNum) (a : Addr) : ((s.pushReg j).setSp a).reg r = (s.setSp a).reg r := by
  rw [State.setSp_reg, State.setSp_reg, State.pushReg_reg, State.setSp_reg]
  split_ifs <;> rfl

/-- PUSH's loop stores the k-th register in its slot, read when SP points at that slot (R146, D16). -/
theorem State.pushRegs_memByte_slot {l : List RegNum} {s : State} {k : Nat} {i : RegNum} (hlen : l.length ≤ 65536)
    (hk : l[k]? = some i) : (s.pushRegs l).memByte (s.slot k) = some ((s.setSp (s.slot k)).reg i) := by
  induction l generalizing s k with
  | nil => simp at hk
  | cons j rest ih =>
    rw [List.length_cons] at hlen
    cases k with
    | zero =>
      obtain rfl : j = i := by simpa using hk
      have hlater : ∀ k, k < rest.length → s.slot 0 ≠ (s.pushReg j).slot k := by
        intro k hk h
        rw [State.slot_pushReg] at h
        exact absurd (s.slot_inj (by omega) (by omega) h) (by omega)
      rw [State.pushRegs, State.pushRegs_memByte_other hlater, State.pushReg_memByte]
      exact if_pos rfl
    | succ k =>
      have hrest := ih (s := s.pushReg j) (k := k) (by omega) (by simpa using hk)
      rw [State.slot_pushReg] at hrest
      rw [State.pushRegs, hrest, State.setSp_pushReg_reg]

/-- The register range has at most 16 members. -/
theorem length_regRange_le (x y : RegNum) : (regRange x y).length ≤ 16 := by
  rw [length_regRange]
  exact (y - x).isLt

/-- Settles O54: PUSH is its loop over the register range. -/
theorem pushResult : Obligations.PushResult := by
  intro x y s
  refine ⟨decodesTo_of_opcode_ne rfl rfl (by decide), _, rfl, ?sp, fun k hk => ?slot, fun a ha => ?other,
    s.keepsRegsBut_pushRegs (regRange x y), ?flags, ?mode, ?pc⟩
  case sp => rw [State.advance_sp, State.pushRegs_sp, length_regRange]
  case slot =>
    have hmem : (regRange x y)[k]? = some (x + BitVec.ofNat 4 k) := regRange_getElem?_eq_some.mpr ⟨Nat.le_of_lt_succ hk, rfl⟩
    have hlen := length_regRange_le x y
    rw [State.advance_memByte]
    refine (State.pushRegs_memByte_slot (by omega) hmem).trans ?_
    rw [State.setSp_reg]
    rfl
  case other => exact State.pushRegs_memByte_other (by rwa [length_regRange])
  all_goals obtain ⟨hpc, hflags, hhalted, hcfg, -⟩ := State.pushRegs_frame (regRange x y) s
  case flags => exact hflags
  case mode => exact ⟨hhalted, hcfg⟩
  case pc => rw [State.advance_pc, hpc]

/-! ### POP's loop -/

/-- The relation of R147 is what POP's loop computes. -/
theorem pops_iff_popRegs {l : List RegNum} {s t : State} : Pops l s t ↔ s.popRegs l = .ok t := by
  constructor
  · intro h
    induction h with
    | done s => rfl
    | pop hv _ ih => simp only [State.popRegs, State.popReg_ok.mpr ⟨_, hv, rfl⟩, ih]
  · intro h
    induction l generalizing s with
    | nil =>
      obtain rfl := Except.ok.inj h
      exact .done s
    | cons i rest ih =>
      rw [State.popRegs] at h
      split at h
      · next s1 hs1 =>
        obtain ⟨v, hv, rfl⟩ := State.popReg_ok.mp hs1
        exact .pop hv (ih h)
      · cases h

/-- Settles O56: POP is its loop, which `pops_iff_popRegs` describes and the lemmas on `popRegs` frame. -/
theorem popFollowsItsLoop : Obligations.PopFollowsItsLoop := by
  intro x y s
  refine ⟨fun t => ⟨fun h => ?loop, fun ⟨u, hu, ht⟩ => ?back⟩, fun t h => ?frame, fun hloaded => ?completes, fun f h => ?fault⟩
  case loop =>
    obtain ⟨u, hu, rfl⟩ := execPop_next.mp h
    obtain ⟨hpc, -⟩ := State.popRegs_frame hu
    exact ⟨u, pops_iff_popRegs.mpr hu, by rw [State.advance, hpc]⟩
  case back =>
    have hu := pops_iff_popRegs.mp hu
    obtain ⟨hpc, -⟩ := State.popRegs_frame hu
    exact execPop_next.mpr ⟨u, hu, by rw [ht, State.advance, hpc]⟩
  case frame =>
    exact ⟨registersWrittenOnlyAsTabulated _ s t h, execPop_flags h, memoryWrittenOnlyByStores _ s t h rfl,
      exec_keepsMode_of_ne_hlt h nofun⟩
  case completes =>
    cases h : exec (.pop x y) s with
    | next t => exact ⟨t, rfl⟩
    | refused r => exact absurd h (exec_ne_refused _ s r)
    | fault f =>
      obtain ⟨a, hnone, -⟩ := State.popRegs_error (execPop_fault.mp h)
      exact absurd (hloaded a) (by simp [hnone])
  case fault =>
    obtain ⟨a, hnone, hf⟩ := State.popRegs_error (execPop_fault.mp h)
    exact ⟨a, hf, hnone⟩

/-- A register that is no half of SP. -/
def Plain (i : RegNum) : Prop := i ≠ 14#4 ∧ i ≠ 15#4

/-- POP's loop over different registers, none a half of SP, where the bytes it reads hold values: the k-th register gets the byte at
`SP + k` (R147). -/
theorem State.popRegs_plain {l : List RegNum} {s : State} (hplain : ∀ i ∈ l, Plain i) (hnodup : l.Nodup)
    (hloaded : ∀ k, k < l.length → (s.memByte (s.sp + BitVec.ofNat 16 k)).isSome = true) :
    ∃ t, s.popRegs l = .ok t ∧ t.sp = s.sp + BitVec.ofNat 16 l.length ∧
      ∀ k i, l[k]? = some i → s.memByte (s.sp + BitVec.ofNat 16 k) = some (t.reg i) := by
  induction l generalizing s with
  | nil => exact ⟨s, rfl, (BitVec.add_zero s.sp).symm, nofun⟩
  | cons i rest ih =>
    obtain ⟨⟨h14, h15⟩, hplain⟩ := List.forall_mem_cons.mp hplain
    obtain ⟨hfresh, hnodup⟩ := List.nodup_cons.mp hnodup
    obtain ⟨v, hv⟩ := Option.isSome_iff_exists.mp (hloaded 0 (by simp))
    have hv : s.memByte s.sp = some v := by simpa using hv
    let s1 := (s.setReg i v).setSp ((s.setReg i v).sp + 1#16)
    have hsp (k : Nat) : s1.sp + BitVec.ofNat 16 k = s.sp + BitVec.ofNat 16 (k + 1) := by
      rw [State.setSp_sp, State.setReg_sp_other s v h14 h15, BitVec.add_assoc, ← BitVec.ofNat_add, Nat.add_comm]
    obtain ⟨t, ht, htsp, hbytes⟩ := ih (s := s1) hplain hnodup fun k hk => by
      rw [hsp]
      exact hloaded (k + 1) (by simpa using hk)
    refine ⟨t, ?_, ?_, fun k r hk => ?_⟩
    · simp only [State.popRegs, State.popReg_ok.mpr ⟨v, hv, rfl⟩]
      exact ht
    · rw [htsp, hsp, List.length_cons]
    · cases k with
      | zero =>
        obtain rfl : i = r := by simpa using hk
        have hkept : t.reg i = s1.reg i := State.keepsRegsBut_popRegs ht i (by simp [h14, h15, hfresh])
        rw [hkept, State.setSp_reg, if_neg h14, if_neg h15, State.reg_setReg_same, BitVec.add_zero, hv]
      | succ k =>
        rw [← hsp]
        exact hbytes k r (by simpa using hk)

/-- In either order POP fills each register of its range once (R145, R147). -/
theorem popOrderList_nodup (o : PopOrder) (x y : RegNum) : (popOrderList o (regRange x y)).Nodup := by
  cases o with
  | ascending => exact regRange_nodup x y
  | descending => exact List.nodup_reverse.mpr (regRange_nodup x y)

theorem length_popOrderList (o : PopOrder) (x y : RegNum) : (popOrderList o (regRange x y)).length = (y - x).toNat + 1 := by
  cases o with
  | ascending => exact length_regRange x y
  | descending => exact (List.length_reverse).trans (length_regRange x y)

/-- The k-th register from the end of the range (R145). -/
theorem add_ofNat_sub (x y : RegNum) {k : Nat} (hk : k ≤ (y - x).toNat) :
    x + BitVec.ofNat 4 ((y - x).toNat - k) = y - BitVec.ofNat 4 k := by
  bv_omega

/-- The k-th register that POP fills (R147). -/
def popOrderReg (o : PopOrder) (x y : RegNum) (k : Nat) : RegNum :=
  match o with
  | .ascending => x + BitVec.ofNat 4 k
  | .descending => y - BitVec.ofNat 4 k

theorem popOrderList_getElem? (o : PopOrder) (x y : RegNum) {k : Nat} (hk : k ≤ (y - x).toNat) :
    (popOrderList o (regRange x y))[k]? = some (popOrderReg o x y k) := by
  cases o with
  | ascending => exact regRange_getElem?_eq_some.mpr ⟨hk, rfl⟩
  | descending =>
    have hlt : k < (regRange x y).length := by
      rw [length_regRange]
      omega
    rw [popOrderList, List.getElem?_reverse hlt, length_regRange, regRange_getElem?_eq_some]
    exact ⟨by omega, add_ofNat_sub x y hk⟩

/-- Every member of the range is Rx + k for some k in bounds (R145). -/
theorem exists_of_mem_regRange {x y r : RegNum} (h : r ∈ regRange x y) : ∃ k ≤ (y - x).toNat, x + BitVec.ofNat 4 k = r := by
  obtain ⟨k, hk⟩ := List.mem_iff_getElem?.mp h
  exact ⟨k, regRange_getElem?_eq_some.mp hk⟩

/-- Settles O55: POP is its loop over the range in the order that POP_ORDER gives. -/
theorem popResultForPlainRanges : Obligations.PopResultForPlainRanges := by
  intro x y s n hplain hloaded
  refine ⟨decodesTo_of_opcode_ne rfl rfl (by decide), ?_⟩
  obtain ⟨u, hu, hsp, hbytes⟩ := State.popRegs_plain (s := s) (l := popOrderList s.cfg.popOrder (regRange x y))
    (fun i hi => by
      obtain ⟨k, hk, rfl⟩ := exists_of_mem_regRange ((mem_popOrderList _ _ _).mp hi)
      exact hplain k (Nat.lt_succ_of_le hk))
    (popOrderList_nodup _ x y) (by rwa [length_popOrderList])
  have hexec : exec (.pop x y) s = .next (u.advance 2) := execPop_next.mpr ⟨u, hu, rfl⟩
  obtain ⟨-, hframe, -⟩ := popFollowsItsLoop x y s
  obtain ⟨hregs, hflags, hmem, hmode⟩ := hframe _ hexec
  obtain ⟨hpc, -⟩ := State.popRegs_frame hu
  refine ⟨_, hexec, ?_, fun k hk => ?_, hregs, hflags, hmem, hmode, ?_⟩
  · rw [State.advance_sp, hsp, length_popOrderList]
  · exact hbytes k _ (popOrderList_getElem? _ x y (Nat.le_of_lt_succ hk))
  · rw [State.advance_pc, hpc]

/-! ### PUSH and then POP -/

theorem regRange_self (x : RegNum) : regRange x x = [x] := by
  simp [regRange]

/-- One register pushed lies at the new SP (R146). -/
theorem stack_after_push {x : RegNum} {s t : State} (hx : Plain x) (h : exec (.push x x) s = .next t) :
    t.sp = s.sp - 1#16 ∧ t.memByte t.sp = some (s.reg x) := by
  obtain rfl := Host.Outcome.next.inj h
  rw [regRange_self]
  refine ⟨s.pushReg_sp x, ?_⟩
  rw [State.advance_sp, State.advance_memByte, State.pushRegs, State.pushRegs, State.pushReg_sp, State.pushReg_memByte, if_pos rfl,
    State.setSp_reg, if_neg hx.1, if_neg hx.2]

/-- Settles O57: the one byte pushed is the one popped, in either order. -/
theorem popUndoesPushOfOneRegister : Obligations.PopUndoesPushOfOneRegister := by
  intro x y s t r hx14 hx15 hy14 hy15 h hsp hbyte
  obtain ⟨htsp, htbyte⟩ := stack_after_push ⟨hx14, hx15⟩ h
  have hpop : exec (.pop y y) r = .next ((((r.setReg y (s.reg x)).setSp ((r.setReg y (s.reg x)).sp + 1#16))).advance 2) := by
    refine execPop_next.mpr ⟨_, ?_, rfl⟩
    have hone : popOrderList r.cfg.popOrder (regRange y y) = [y] := by
      rw [regRange_self]
      cases r.cfg.popOrder <;> rfl
    rw [hone]
    exact pops_iff_popRegs.mp (.pop (by rw [hsp, hbyte, htbyte]) (.done _))
  refine ⟨_, hpop, ?_, ?_⟩
  · rw [State.advance_reg, State.setSp_reg, if_neg hy14, if_neg hy15, State.reg_setReg_same]
  · rw [State.advance_sp, State.setSp_sp, State.setReg_sp_other _ _ hy14 hy15, hsp, htsp, BitVec.sub_add_cancel]

/-- The halves of SP are as before where SP is (R14). -/
theorem State.reg_eq_of_sp_eq {s t : State} (h : t.sp = s.sp) {r : RegNum} (hr : ¬ Plain r) : t.reg r = s.reg r := by
  have hr : r = 14#4 ∨ r = 15#4 := by
    unfold Plain at hr
    tauto
  obtain rfl | rfl := hr
  · rw [← highByte_joinBytes (t.reg 14#4) (t.reg 15#4), ← State.sp, h, State.sp, highByte_joinBytes]
  · rw [← lowByte_joinBytes (t.reg 14#4) (t.reg 15#4), ← State.sp, h, State.sp, lowByte_joinBytes]

/-- After PUSH of a range without R14 and R15 the byte at `SP + k` is the k-th register from the end (R146). -/
theorem memByte_after_push {x y : RegNum} {s : State} {k : Nat} (hk : k ≤ (y - x).toNat) (hplain : Plain (y - BitVec.ofNat 4 k)) :
    (s.pushRegs (regRange x y)).memByte ((s.pushRegs (regRange x y)).sp + BitVec.ofNat 16 k) =
      some (s.reg (y - BitVec.ofNat 4 k)) := by
  have hlen := length_regRange_le x y
  have hslot : (s.pushRegs (regRange x y)).sp + BitVec.ofNat 16 k = s.slot ((y - x).toNat - k) := by
    rw [State.pushRegs_sp, length_regRange, State.slot]
    have hm := (y - x).isLt
    generalize (y - x).toNat = m at *
    bv_omega
  have hmem : (regRange x y)[(y - x).toNat - k]? = some (y - BitVec.ofNat 4 k) :=
    regRange_getElem?_eq_some.mpr ⟨Nat.sub_le _ _, add_ofNat_sub x y hk⟩
  rw [hslot, State.pushRegs_memByte_slot (by omega) hmem, State.setSp_reg, if_neg hplain.1, if_neg hplain.2]

/-- Settles O58: POP (O55) fills the k-th register of its order with the byte of the k-th register from the end, and SP is back. -/
theorem pushThenPopReversesOrRestores : Obligations.PushThenPopReversesOrRestores := by
  intro x y s t n hplain h
  obtain rfl := Host.Outcome.next.inj h
  let u := s.pushRegs (regRange x y)
  obtain ⟨-, hflags, -, hcfg, -⟩ := State.pushRegs_frame (regRange x y) s
  have hplain' : ∀ k, k < n → Plain (y - BitVec.ofNat 4 k) := by
    intro k hk
    rw [← add_ofNat_sub x y (Nat.le_of_lt_succ hk)]
    exact hplain _ (by omega)
  have hbytes : ∀ k, k < n → u.memByte (u.sp + BitVec.ofNat 16 k) = some (s.reg (y - BitVec.ofNat 4 k)) := fun k hk =>
    memByte_after_push (Nat.le_of_lt_succ hk) (hplain' k hk)
  obtain ⟨-, v, hexec, hvsp, hvbytes, hvregs, hvflags, -⟩ := popResultForPlainRanges x y (u.advance 2) hplain
    fun k hk => Option.isSome_of_eq_some (hbytes k hk)
  have hpopped : ∀ k, k < n → v.reg (popOrderReg s.cfg.popOrder x y k) = s.reg (y - BitVec.ofNat 4 k) := by
    intro k hk
    rw [← hcfg]
    exact Option.some.inj ((hvbytes k hk).symm.trans (hbytes k hk))
  have hsp : v.sp = s.sp := by
    rw [hvsp, State.advance_sp, State.pushRegs_sp, length_regRange, BitVec.sub_add_cancel]
  have hothers : s.KeepsRegsBut v (regRange x y) := by
    intro r hr
    by_cases hrplain : Plain r
    · obtain ⟨h14, h15⟩ := hrplain
      rw [hvregs r (by simp [h14, h15, hr]), State.advance_reg]
      exact s.keepsRegsBut_pushRegs (regRange x y) r (by simp [h14, h15])
    · exact State.reg_eq_of_sp_eq hsp hrplain
  refine ⟨v, hexec, hsp, hvflags.trans hflags, fun hasc k hk => ?_, fun hdesc r _ => ?_, hothers⟩
  · rw [hasc] at hpopped
    exact hpopped k hk
  · by_cases hr : r ∈ regRange x y
    · obtain ⟨k, hk, rfl⟩ := exists_of_mem_regRange hr
      have hback : x + BitVec.ofNat 4 k = y - BitVec.ofNat 4 ((y - x).toNat - k) := by
        rw [← add_ofNat_sub x y (Nat.sub_le _ _), Nat.sub_sub_self hk]
      rw [hdesc] at hpopped
      rw [hback]
      exact hpopped _ (by omega)
    · exact hothers r hr

/-! ### NOP and HLT -/

/-- Settles O59: each stops on a refused operand byte alone, and otherwise has its one effect. -/
theorem nopAndHltResults : Obligations.NopAndHltResults := by
  intro u s
  refine ⟨decodesTo_of_opcode_ne rfl rfl (by decide), decodesTo_of_opcode_ne rfl rfl (by decide), fun hstrict hu => ⟨?_, ?_⟩,
    fun hadmit => ⟨?_, ?_⟩⟩
  · exact execNop_fault.mpr ⟨hstrict, hu, rfl⟩
  · exact execHlt_fault.mpr ⟨hstrict, hu, rfl⟩
  · exact ⟨_, execNop_next.mpr ⟨operand_admitted hadmit, rfl⟩, rfl, rfl, fun _ _ => rfl, rfl, fun _ => rfl, rfl⟩
  · exact ⟨_, execHlt_next.mpr ⟨operand_admitted hadmit, rfl⟩, rfl, rfl, fun _ _ => rfl, rfl, fun _ => rfl, rfl⟩

end Sys2Proof.Machine
end
